-- ==== Sys2Proof/Word.lean ====
section
/-! DEFINITION. The byte and the byte string (spec 00_scope.md rule R7), and nothing else: the helpers over them stand in
Machine/Operands.lean. -/

namespace Sys2Proof

/-- A byte: "an unsigned integer 0 ... 255 (8 bits)" (R7). Addition wraps, as the checksum's does (R74). -/
abbrev Byte := BitVec 8

/-- A byte string: "a finite list of bytes" (R7). -/
abbrev Bytes := List Byte

end Sys2Proof
end

