-- ==== Sys2Proof/Config.lean ====
section
/-! DEFINITION. What is fixed for a model: the constants of spec 00_scope.md rule R5, the code values of 30_encoding.md, the
parameter P_KEEP (R6, D9), and the host's two open parameters (D27, D31) as constants with no body. -/

namespace Sys2Proof.Config

/-- `HEADER`, the six ASCII bytes of "IMPROV" (R5, R48). -/
def header : Bytes := [0x49, 0x4D, 0x50, 0x52, 0x4F, 0x56]

/-- `VERSION` (R5, R50). -/
def version : Byte := 0x01

/-- `TERMINATOR`, the byte `\n` (R5, R54). -/
def terminator : Byte := 0x0A

/-- `MAX_LEN`, the largest value of the length byte and of every one-byte length field (R5). -/
def maxLen : Nat := 255

/-- `WINDOW_LEN` = `HEADER_LEN` (R5). -/
def windowLen : Nat := 6

/-- `MAX_BODY`: header through payload (R6). -/
def maxBody : Nat := 264

/-- `MAX_FRAME`: body, checksum and terminator (R6). -/
def maxFrame : Nat := 266

/-- `MAX_FIELDS`: completed records of one RPC result row (R6, R26). -/
def maxFields : Nat := 255

/-- `MAX_FIELD_BYTES`: bytes of one record (R6). -/
def maxFieldBytes : Nat := 255

/-- `MAX_ROW_BYTES`: record bytes of one row, spaces not counted (R6, R26). -/
def maxRowBytes : Nat := 508

/-- Packet type `CurrentState` (R51). -/
def typeCurrentState : Byte := 0x01
/-- Packet type `ErrorState` (R51). -/
def typeErrorState : Byte := 0x02
/-- Packet type `RpcCommand` (R51), the only one the encoder produces. -/
def typeRpcCommand : Byte := 0x03
/-- Packet type `RpcResult` (R51). -/
def typeRpcResult : Byte := 0x04

/-- Command id `WifiSettings` (R61). -/
def cmdWifiSettings : Byte := 0x01
/-- Command id `CurrentState` (R61); not the packet type of that name. -/
def cmdCurrentState : Byte := 0x02
/-- Command id `DeviceInfo` (R61). -/
def cmdDeviceInfo : Byte := 0x03
/-- Command id `ScanWifi` (R61), the one id that changes what the decoder does (R105). -/
def cmdScanWifi : Byte := 0x04

/-- The default of the parameter `P_KEEP`: printable ASCII (R6, D9). The decoder's operations take the predicate as an
argument; only the machine's own step applies this one. Log 10. -/
def pKeep (b : Byte) : Bool := decide (0x20 ≤ b.toNat) && decide (b.toNat ≤ 0x7E)

/-- What R6 asks of any `P_KEEP`: true on the six header bytes. -/
abbrev KeepsHeader (keep : Byte → Bool) : Prop := header.all keep = true

/-- The labels of the state values whose wording the source does not give (R60, D27): open, no value can be proved of them.
Log 11. -/
opaque openLabelState : Byte → String

/-- The labels of the error values whose wording the source does not give (R60, D27). Log 11. -/
opaque openLabelError : Byte → String

/-- `TEXT_TO_BYTES` on text that is not ASCII (R91, D31): open. Log 11. -/
opaque openTextToBytes : String → Bytes

end Sys2Proof.Config
end

