-- ==== Sys2Proof/Syntax.lean ====
section
/-! DEFINITION. The instructions: one constructor per row of spec/opcode_table.json, at its four positions (30_encoding.md
rule R65), and the decoder's control states, whose codes are the opcodes of one of the positions (10_state.md rule R20). -/

namespace Sys2Proof

/-- `dec.st`, the decoder's control state (R20): ten states of the source, `Done`, and the five unused codes 11 to 15
(`unused k` is code 11 + k), which no step writes. -/
inductive DecSt where
  | syncHeader
  | readVersion
  | readType
  | readLength
  | readStateByte
  | readErrorByte
  | readRpcResponseCmd
  | readRpcDataLen
  | readRpcStrLen
  | readRpcStrData
  | done
  | unused (k : Fin 5)
deriving DecidableEq, Repr

/-- The two ways an RpcCommand frame meets the block (R51): the encoder produces it from a request (R73, R76, R78), or it
arrives at the decoder, which has no state for it (R63, D29). -/
inductive RpcCommandForm where
  | produced (cmd : Byte) (args : List Bytes)
  | received (payload : Bytes) (csum term : Byte)
deriving DecidableEq, Repr

/-- The two places of the command id `WifiSettings` (R61): `command_id` of a request with its two arguments (R57, R81), or
`response_to_command_id` of a result with its records (R58). -/
inductive WifiForm where
  | request (ssid password : Bytes)
  | response (records : List Bytes)
deriving DecidableEq, Repr

/-- The two places of a command id that takes no argument (R61, R82 to R84; R58 for the result). -/
inductive PlainForm where
  | request
  | response (records : List Bytes)
deriving DecidableEq, Repr

/-- The two places of an unassigned command id (R61, R85; R58 for the result). -/
inductive AnyCommandForm where
  | request (args : List Bytes)
  | response (records : List Bytes)
deriving DecidableEq, Repr

/-- The instructions, in the table's order. A frame's operands are its payload, its checksum byte and its terminator byte:
the decoder takes any value of the last two (R54, R107), so neither is fixed here. -/
inductive Instr where
  /-- frame.packet_type 0x01 (R51, R99) -/
  | currentState (payload : Bytes) (csum term : Byte)
  /-- frame.packet_type 0x02 (R51, R100) -/
  | errorState (payload : Bytes) (csum term : Byte)
  /-- frame.packet_type 0x03 (R51, R73) -/
  | rpcCommand (form : RpcCommandForm)
  /-- frame.packet_type 0x04 (R51, R101) -/
  | rpcResult (payload : Bytes) (csum term : Byte)
  /-- frame.packet_type 0x00, 0x05 to 0xFF (R51, R98) -/
  | unknownPacketType (ptype : Byte) (payload : Bytes) (csum term : Byte)
  /-- rpc.command_id 0x01 (R61, R81) -/
  | wifiSettings (form : WifiForm)
  /-- rpc.command_id 0x02 (R61, R82) -/
  | currentStateCmd (form : PlainForm)
  /-- rpc.command_id 0x03 (R61, R83) -/
  | deviceInfo (form : PlainForm)
  /-- rpc.command_id 0x04 (R61, R84) -/
  | scanWifi (form : PlainForm)
  /-- rpc.command_id 0x00, 0x05 to 0xFF (R61, R85) -/
  | unassignedCommandId (cmd : Byte) (form : AnyCommandForm)
  /-- decoder.state 0 (R95) -/
  | decByteSyncHeader (b : Byte)
  /-- decoder.state 1 (R96) -/
  | decByteReadVersion (b : Byte)
  /-- decoder.state 2 (R97) -/
  | decByteReadType (b : Byte)
  /-- decoder.state 3 (R98) -/
  | decByteReadLength (b : Byte)
  /-- decoder.state 4 (R99) -/
  | decByteReadStateByte (b : Byte)
  /-- decoder.state 5 (R100) -/
  | decByteReadErrorByte (b : Byte)
  /-- decoder.state 6 (R101) -/
  | decByteReadRpcResponseCmd (b : Byte)
  /-- decoder.state 7 (R102) -/
  | decByteReadRpcDataLen (b : Byte)
  /-- decoder.state 8 (R103) -/
  | decByteReadRpcStrLen (b : Byte)
  /-- decoder.state 9 (R104) -/
  | decByteReadRpcStrData (b : Byte)
  /-- decoder.state 10 (R93): the byte offered is not consumed -/
  | decByteDone (b : Byte)
  /-- decoder.state 11 to 15 (R20, U17) -/
  | decStateUnused (k : Fin 5) (b : Byte)
  /-- host.script ENC (R66, R76) -/
  | enc (cmd : Byte) (args : List Bytes)
  /-- host.script TAKE (R66, R78) -/
  | take (n : Nat)
  /-- host.script DRAIN (R66, R78) -/
  | drain
  /-- host.script ENCFAIL (R66, R80) -/
  | encFail
  /-- host.script START (R66, R142) -/
  | start
  /-- host.script FEED (R66, R94) -/
  | feed (bs : Bytes)
  /-- host.script DECFAIL (R66, R106) -/
  | decFail
  /-- host.script RESET (R66, R141) -/
  | reset
  /-- host.pseudo WIFI (R67, R81) -/
  | wifi (ssid password : Bytes)
  /-- host.pseudo GETSTATE (R67, R82) -/
  | getState
  /-- host.pseudo INFO (R67, R83) -/
  | info
  /-- host.pseudo SCAN (R67, R84) -/
  | scan
deriving DecidableEq, Repr

end Sys2Proof
end

