-- ==== Sys2Proof/Machine/Operands.lean ====
section
/-! DEFINITION. The operand forms: byte-string helpers of spec 00_scope.md rule R7, the code of a decoder state (R20), and
the composition of requests, payloads, bodies and frames (30_encoding.md rules R48 to R58, 40_encoder.md rules R70 to R75),
with the reference function `parse_command` of R88. Pure functions: no state is read here. -/

namespace Sys2Proof.Machine

/-- `last_n(n, x)`: the last `min(n, |x|)` elements of `x` (R7). -/
def lastN (n : Nat) (x : Bytes) : Bytes := x.drop (x.length - n)

/-- `sum(x)` as a mathematical integer (R7). -/
def sumNat (x : Bytes) : Nat := (x.map BitVec.toNat).sum

/-- The low 8 bits of the sum of `x`: `sum(x) mod 256` (R53, R74). -/
def byteSum (x : Bytes) : Byte := BitVec.ofNat 8 (sumNat x)

/-- The 4-bit code of a decoder state (R20). -/
def stCode : DecSt → BitVec 4
  | .syncHeader => 0
  | .readVersion => 1
  | .readType => 2
  | .readLength => 3
  | .readStateByte => 4
  | .readErrorByte => 5
  | .readRpcResponseCmd => 6
  | .readRpcDataLen => 7
  | .readRpcStrLen => 8
  | .readRpcStrData => 9
  | .done => 10
  | .unused k => BitVec.ofNat 4 (11 + k.val)

/-- The decoder state a 4-bit code stands for (R20). -/
def stOfCode (c : BitVec 4) : DecSt :=
  match c.toNat with
  | 0 => .syncHeader
  | 1 => .readVersion
  | 2 => .readType
  | 3 => .readLength
  | 4 => .readStateByte
  | 5 => .readErrorByte
  | 6 => .readRpcResponseCmd
  | 7 => .readRpcDataLen
  | 8 => .readRpcStrLen
  | 9 => .readRpcStrData
  | 10 => .done
  | n => .unused (Fin.ofNat 5 (n - 11))

/-- The byte cost of the arguments (or records): `S = sum over i of (1 + |a_i|)` (R56, R70). -/
def costSum (args : List Bytes) : Nat := (args.map (fun a => 1 + a.length)).sum

/-- The total of the lengths of the byte strings (R26). -/
def lengthSum (fs : List Bytes) : Nat := (fs.map List.length).sum

/-- R70: a request is invalid when some argument is longer than 255 bytes, or `2 + S > 255`. -/
def invalidArgs (args : List Bytes) : Bool :=
  args.any (fun a => decide (Config.maxLen < a.length)) || decide (Config.maxLen < 2 + costSum args)

/-- The length-prefixed byte strings `[|a_1|] ++ a_1 ++ ... ++ [|a_n|] ++ a_n` (R55, R58). -/
def recordBytes (args : List Bytes) : Bytes :=
  args.flatMap (fun a => BitVec.ofNat 8 a.length :: a)

/-- The payload `P = [cmd, D] ++ ...` (R72); a result's payload has the same shape (R58). -/
def rpcPayload (cmd : Byte) (args : List Bytes) : Bytes :=
  cmd :: BitVec.ofNat 8 (costSum args) :: recordBytes args

/-- The body of a frame of packet type `t`: header, version, type, length, payload (R48). -/
def frameBody (t : Byte) (payload : Bytes) : Bytes :=
  Config.header ++ [Config.version, t, BitVec.ofNat 8 payload.length] ++ payload

/-- The bytes of a frame with the checksum and terminator bytes it carries (R48); nothing here says the checksum is
right, since the decoder takes any (R107). -/
def wireFrame (t : Byte) (payload : Bytes) (csum term : Byte) : Bytes :=
  frameBody t payload ++ [csum, term]

/-- The frame of R48 with the checksum R53 gives it and the terminator R54 gives it. -/
def cleanFrame (t : Byte) (payload : Bytes) : Bytes :=
  wireFrame t payload (byteSum (frameBody t payload)) Config.terminator

/-- The body `B` of a request (R73). -/
def requestBody (cmd : Byte) (args : List Bytes) : Bytes :=
  frameBody Config.typeRpcCommand (rpcPayload cmd args)

/-- `build_command(cmd, args)` (R75): none is `EncodingError`. -/
def buildCommand (cmd : Byte) (args : List Bytes) : Option Bytes :=
  if invalidArgs args then none
  else some (requestBody cmd args ++ [byteSum (requestBody cmd args), Config.terminator])

/-- The loop of `parse_command` (R88) over what is left of the payload; `fuel` bounds the number of arguments. -/
def parseArgs : Nat → Bytes → Option (List Bytes)
  | _, [] => some []
  | 0, _ :: _ => none
  | fuel + 1, k :: rest =>
    if k.toNat ≤ rest.length then
      (parseArgs fuel (rest.drop k.toNat)).map (fun args => rest.take k.toNat :: args)
    else none

/-- `parse_command(F)` (R88): the reference function that reads a request back from its frame; not hardware. -/
def parseCommand (f : Bytes) : Option (Byte × List Bytes) :=
  let l := (f.getD 8 0).toNat
  if 13 ≤ f.length ∧ f.take 6 = Config.header ∧ f.getD 6 0 = Config.version ∧ f.getD 7 0 = Config.typeRpcCommand
      ∧ f.length = 11 + l ∧ f.getD (9 + l) 0 = byteSum (f.take (9 + l)) ∧ f.getD (10 + l) 0 = Config.terminator
  then
    match (f.drop 9).take l with
    | cmd :: d :: rest => if d.toNat + 2 = l then (parseArgs rest.length rest).map (fun args => (cmd, args)) else none
    | _ => none
  else none

end Sys2Proof.Machine
end

