-- ==== Sys2Proof/WellFormed.lean ====
section
/-! DEFINITION. Which instructions the spec's encodings can carry: a frame's payload fits its length byte (30_encoding.md
rule R48), an unknown type or an unassigned id is none of the assigned ones (R51, R61), a result's records fit one frame
(R58). Nothing else is asked: a request that R70 rejects is well formed, since it can be offered. -/

namespace Sys2Proof

/-- The payload length is 0 to 255 (R48). -/
def payloadFits (payload : Bytes) : Bool := decide (payload.length ≤ Config.maxLen)

/-- The records of a result fit one frame: `2 + S ≤ 255` (R48, R58). -/
def recordsFit (records : List Bytes) : Bool := !Machine.invalidArgs records

/-- The packet type is one of 0x00, 0x05 to 0xFF (R51). -/
def isUnknownType (t : Byte) : Bool :=
  t != Config.typeCurrentState && t != Config.typeErrorState && t != Config.typeRpcCommand && t != Config.typeRpcResult

/-- The command id is one of 0x00, 0x05 to 0xFF (R61). -/
def isUnassignedId (c : Byte) : Bool :=
  c != Config.cmdWifiSettings && c != Config.cmdCurrentState && c != Config.cmdDeviceInfo && c != Config.cmdScanWifi

/-- The check as a Bool. -/
def wellFormed : Instr → Bool
  | .currentState payload _ _ => payloadFits payload
  | .errorState payload _ _ => payloadFits payload
  | .rpcCommand (.produced _ _) => true
  | .rpcCommand (.received payload _ _) => payloadFits payload
  | .rpcResult payload _ _ => payloadFits payload
  | .unknownPacketType t payload _ _ => isUnknownType t && payloadFits payload
  | .wifiSettings (.request _ _) => true
  | .wifiSettings (.response records) => recordsFit records
  | .currentStateCmd .request => true
  | .currentStateCmd (.response records) => recordsFit records
  | .deviceInfo .request => true
  | .deviceInfo (.response records) => recordsFit records
  | .scanWifi .request => true
  | .scanWifi (.response records) => recordsFit records
  | .unassignedCommandId c (.request _) => isUnassignedId c
  | .unassignedCommandId c (.response records) => isUnassignedId c && recordsFit records
  | .decByteSyncHeader _ => true
  | .decByteReadVersion _ => true
  | .decByteReadType _ => true
  | .decByteReadLength _ => true
  | .decByteReadStateByte _ => true
  | .decByteReadErrorByte _ => true
  | .decByteReadRpcResponseCmd _ => true
  | .decByteReadRpcDataLen _ => true
  | .decByteReadRpcStrLen _ => true
  | .decByteReadRpcStrData _ => true
  | .decByteDone _ => true
  | .decStateUnused _ _ => true
  | .enc _ _ => true
  | .take _ => true
  | .drain => true
  | .encFail => true
  | .start => true
  | .feed _ => true
  | .decFail => true
  | .reset => true
  | .wifi _ _ => true
  | .getState => true
  | .info => true
  | .scan => true

/-- The instruction is one the encodings can carry. -/
abbrev WellFormed (i : Instr) : Prop := wellFormed i = true

end Sys2Proof
end

