-- ==== Sys2Proof/Decode.lean ====
section
/-! DEFINITION. The decoder, total on any bytes, and after it the encoder.

Three of the table's four positions have codes the spec gives, and they keep them: a frame is its wire bytes (30_encoding.md
rule R48) with the packet type of R51 at byte 7; a command id is the byte of R61; a decoder-state row is the code of
`dec.st` (10_state.md rule R20) with the input byte. The host's operations (R66, R67) have no byte encoding in the spec, and
neither has the position itself: the lead byte, the operation numbers and the operand marks below are the MODEL'S OWN
(DESIGN CHOICE, log 2); nothing the block does depends on them. -/

namespace Sys2Proof

/-- Why a byte string is no instruction. Raised by `decode`; safe: the machine stops where the spec has no operation. -/
inductive DecodeError where
  /-- no byte is left -/
  | empty
  /-- the first byte is the lead of no position -/
  | unknownLead (b : Byte)
  /-- the position has no such code -/
  | unknownCode (b : Byte)
  /-- the bytes of a frame break the layout of R48, or end too soon -/
  | badFrame
  /-- the operand bytes break the operand marks, or end too soon -/
  | badOperand
  /-- the instruction read is not well formed -/
  | illFormed
deriving DecidableEq, Repr

/-- Lead byte of `frame.packet_type`: a frame begins with the header's `I` (R48). -/
def leadFrame : Byte := 0x49
/-- Lead byte of `rpc.command_id` (log 2). -/
def leadCommandId : Byte := 0x01
/-- Lead byte of `decoder.state`: the offer of one input byte to the decoder (log 2). -/
def leadDecByte : Byte := 0x02
/-- Lead byte of `host.script` (log 2). -/
def leadScript : Byte := 0x03
/-- Lead byte of `host.pseudo` (log 2). -/
def leadPseudo : Byte := 0x04
/-- Lead byte of an RpcCommand frame the encoder is to produce (log 2). -/
def leadProduce : Byte := 0x05

/-- Operand mark: the operand ends here (log 2). -/
def markEnd : Byte := 0x00
/-- Operand mark: the next byte belongs to the string (log 2). -/
def markByte : Byte := 0x01
/-- Operand mark: a new string of a list begins (log 2). -/
def markString : Byte := 0x02

/-- Reads marked bytes up to the end mark: the bytes before the first string mark, the strings after it, and what follows. -/
def readMarked : Bytes → Option (Bytes × List Bytes × Bytes)
  | [] => none
  | m :: r =>
    if m = markEnd then some ([], [], r)
    else if m = markString then (readMarked r).map (fun (h, t, q) => ([], h :: t, q))
    else if m = markByte then
      match r with
      | [] => none
      | b :: q => (readMarked q).map (fun (h, t, q) => (b :: h, t, q))
    else none

/-- Reads one byte string. -/
def readBytes (bs : Bytes) : Option (Bytes × Bytes) :=
  match readMarked bs with
  | some (h, [], q) => some (h, q)
  | _ => none

/-- Reads a list of byte strings. -/
def readStrings (bs : Bytes) : Option (List Bytes × Bytes) :=
  match readMarked bs with
  | some ([], t, q) => some (t, q)
  | _ => none

/-- Reads a count: as many byte marks as the count, then the end mark. -/
def readCount : Bytes → Option (Nat × Bytes)
  | [] => none
  | m :: r =>
    if m = markEnd then some (0, r)
    else if m = markByte then (readCount r).map (fun (n, q) => (n + 1, q))
    else none

/-- An operand that could be read makes an instruction; one that could not is `badOperand`. -/
def withOperand {α : Type} (x : Option (α × Bytes)) (f : α → Option Instr) : Except DecodeError (Instr × Bytes) :=
  match x with
  | some (a, q) =>
    match f a with
    | some i => .ok (i, q)
    | none => .error .badOperand
  | none => .error .badOperand

/-- The frame of packet type `t` (R51). -/
def frameInstr (t : Byte) (payload : Bytes) (csum term : Byte) : Instr :=
  if t = Config.typeCurrentState then .currentState payload csum term
  else if t = Config.typeErrorState then .errorState payload csum term
  else if t = Config.typeRpcCommand then .rpcCommand (.received payload csum term)
  else if t = Config.typeRpcResult then .rpcResult payload csum term
  else .unknownPacketType t payload csum term

/-- Reads a frame of R48 off its wire bytes: six header bytes, version, type, length, payload, checksum, terminator. -/
def readFrame (bs : Bytes) : Except DecodeError (Instr × Bytes) :=
  if bs.take 6 = Config.header then
    match bs.drop 6 with
    | v :: t :: l :: rest =>
      if v = Config.version then
        match rest.drop l.toNat with
        | c :: e :: q => .ok (frameInstr t (rest.take l.toNat) c e, q)
        | _ => .error .badFrame
      else .error .badFrame
    | _ => .error .badFrame
  else .error .badFrame

/-- The two arguments of `WifiSettings` (R57): exactly two strings. -/
def twoStrings (f : Bytes → Bytes → Instr) : List Bytes → Option Instr
  | [a, b] => some (f a b)
  | _ => none

/-- The request with command id `c` (R61, R81 to R85). -/
def commandRequest (c : Byte) (args : List Bytes) : Option Instr :=
  if c = Config.cmdWifiSettings then twoStrings (fun a b => .wifiSettings (.request a b)) args
  else if c = Config.cmdCurrentState then if args = [] then some (.currentStateCmd .request) else none
  else if c = Config.cmdDeviceInfo then if args = [] then some (.deviceInfo .request) else none
  else if c = Config.cmdScanWifi then if args = [] then some (.scanWifi .request) else none
  else some (.unassignedCommandId c (.request args))

/-- The result with `response_to_command_id` `c` (R58, R61). -/
def commandResponse (c : Byte) (records : List Bytes) : Instr :=
  if c = Config.cmdWifiSettings then .wifiSettings (.response records)
  else if c = Config.cmdCurrentState then .currentStateCmd (.response records)
  else if c = Config.cmdDeviceInfo then .deviceInfo (.response records)
  else if c = Config.cmdScanWifi then .scanWifi (.response records)
  else .unassignedCommandId c (.response records)

/-- Reads the `rpc.command_id` position: the code, which of its two places it stands in (0 request, 1 result), and the
strings. -/
def readCommandId : Bytes → Except DecodeError (Instr × Bytes)
  | c :: place :: r =>
    if place = 0 then withOperand (readStrings r) (commandRequest c)
    else if place = 1 then withOperand (readStrings r) (fun rs => some (commandResponse c rs))
    else .error .badOperand
  | _ => .error .badOperand

/-- The row of the `decoder.state` position for state `st` (R65). -/
def decRow (st : DecSt) (b : Byte) : Instr :=
  match st with
  | .syncHeader => .decByteSyncHeader b
  | .readVersion => .decByteReadVersion b
  | .readType => .decByteReadType b
  | .readLength => .decByteReadLength b
  | .readStateByte => .decByteReadStateByte b
  | .readErrorByte => .decByteReadErrorByte b
  | .readRpcResponseCmd => .decByteReadRpcResponseCmd b
  | .readRpcDataLen => .decByteReadRpcDataLen b
  | .readRpcStrLen => .decByteReadRpcStrLen b
  | .readRpcStrData => .decByteReadRpcStrData b
  | .done => .decByteDone b
  | .unused k => .decStateUnused k b

/-- The code of a decoder state as the byte the instruction's bytes hold: the 4 bits of R20, bits 7 to 4 zero. -/
def stByte (st : DecSt) : Byte := BitVec.ofNat 8 (Machine.stCode st).toNat

/-- Reads the `decoder.state` position: the 4-bit code and the input byte. -/
def readDecByte : Bytes → Except DecodeError (Instr × Bytes)
  | c :: b :: q =>
    if c.toNat < 16 then .ok (decRow (Machine.stOfCode (BitVec.ofNat 4 c.toNat)) b, q) else .error (.unknownCode c)
  | _ => .error .badOperand

/-- Reads the `host.script` position (R66), numbered in the order of R66's table. -/
def readScript : Bytes → Except DecodeError (Instr × Bytes)
  | [] => .error .badOperand
  | op :: r =>
    if op = 0 then
      match r with
      | cmd :: q => withOperand (readStrings q) (fun args => some (.enc cmd args))
      | [] => .error .badOperand
    else if op = 1 then withOperand (readCount r) (fun n => some (.take n))
    else if op = 2 then .ok (.drain, r)
    else if op = 3 then .ok (.encFail, r)
    else if op = 4 then .ok (.start, r)
    else if op = 5 then withOperand (readBytes r) (fun bs => some (.feed bs))
    else if op = 6 then .ok (.decFail, r)
    else if op = 7 then .ok (.reset, r)
    else .error (.unknownCode op)

/-- Reads the `host.pseudo` position (R67), numbered in the order of R67's table. -/
def readPseudo : Bytes → Except DecodeError (Instr × Bytes)
  | [] => .error .badOperand
  | op :: r =>
    if op = 0 then withOperand (readStrings r) (twoStrings .wifi)
    else if op = 1 then .ok (.getState, r)
    else if op = 2 then .ok (.info, r)
    else if op = 3 then .ok (.scan, r)
    else .error (.unknownCode op)

/-- Reads an RpcCommand frame to be produced: the command id and the arguments. -/
def readProduce : Bytes → Except DecodeError (Instr × Bytes)
  | cmd :: q => withOperand (readStrings q) (fun args => some (.rpcCommand (.produced cmd args)))
  | [] => .error .badOperand

/-- Reads one instruction, its well-formedness not yet checked. -/
def decodeRaw : Bytes → Except DecodeError (Instr × Bytes)
  | [] => .error .empty
  | x :: r =>
    if x = leadFrame then readFrame (x :: r)
    else if x = leadCommandId then readCommandId r
    else if x = leadDecByte then readDecByte r
    else if x = leadScript then readScript r
    else if x = leadPseudo then readPseudo r
    else if x = leadProduce then readProduce r
    else .error (.unknownLead x)

/-- The decoder: the first instruction of the bytes and the bytes after it, or why there is none. -/
def decode (bs : Bytes) : Except DecodeError (Instr × Bytes) :=
  match decodeRaw bs with
  | .error e => .error e
  | .ok (i, q) => if wellFormed i then .ok (i, q) else .error .illFormed

/-- The marked bytes of one string, without an end mark. -/
def markBytes (bs : Bytes) : Bytes := bs.flatMap (fun b => [markByte, b])

/-- The encoding of a byte-string operand. -/
def encodeBytes (bs : Bytes) : Bytes := markBytes bs ++ [markEnd]

/-- The encoding of a list of byte strings. -/
def encodeStrings (args : List Bytes) : Bytes := args.flatMap (fun a => markString :: markBytes a) ++ [markEnd]

/-- The encoding of a count. -/
def encodeCount (n : Nat) : Bytes := List.replicate n markByte ++ [markEnd]

/-- The encoding of a command id as a request's `command_id`. -/
def encodeRequest (c : Byte) (args : List Bytes) : Bytes := leadCommandId :: c :: 0 :: encodeStrings args

/-- The encoding of a command id as a result's `response_to_command_id`. -/
def encodeResponse (c : Byte) (records : List Bytes) : Bytes := leadCommandId :: c :: 1 :: encodeStrings records

/-- The encoding of a decoder-state row. -/
def encodeDecByte (st : DecSt) (b : Byte) : Bytes := [leadDecByte, stByte st, b]

/-- The encoder. -/
def encode : Instr → Bytes
  | .currentState payload csum term => Machine.wireFrame Config.typeCurrentState payload csum term
  | .errorState payload csum term => Machine.wireFrame Config.typeErrorState payload csum term
  | .rpcCommand (.produced cmd args) => leadProduce :: cmd :: encodeStrings args
  | .rpcCommand (.received payload csum term) => Machine.wireFrame Config.typeRpcCommand payload csum term
  | .rpcResult payload csum term => Machine.wireFrame Config.typeRpcResult payload csum term
  | .unknownPacketType t payload csum term => Machine.wireFrame t payload csum term
  | .wifiSettings (.request ssid password) => encodeRequest Config.cmdWifiSettings [ssid, password]
  | .wifiSettings (.response records) => encodeResponse Config.cmdWifiSettings records
  | .currentStateCmd .request => encodeRequest Config.cmdCurrentState []
  | .currentStateCmd (.response records) => encodeResponse Config.cmdCurrentState records
  | .deviceInfo .request => encodeRequest Config.cmdDeviceInfo []
  | .deviceInfo (.response records) => encodeResponse Config.cmdDeviceInfo records
  | .scanWifi .request => encodeRequest Config.cmdScanWifi []
  | .scanWifi (.response records) => encodeResponse Config.cmdScanWifi records
  | .unassignedCommandId c (.request args) => encodeRequest c args
  | .unassignedCommandId c (.response records) => encodeResponse c records
  | .decByteSyncHeader b => encodeDecByte .syncHeader b
  | .decByteReadVersion b => encodeDecByte .readVersion b
  | .decByteReadType b => encodeDecByte .readType b
  | .decByteReadLength b => encodeDecByte .readLength b
  | .decByteReadStateByte b => encodeDecByte .readStateByte b
  | .decByteReadErrorByte b => encodeDecByte .readErrorByte b
  | .decByteReadRpcResponseCmd b => encodeDecByte .readRpcResponseCmd b
  | .decByteReadRpcDataLen b => encodeDecByte .readRpcDataLen b
  | .decByteReadRpcStrLen b => encodeDecByte .readRpcStrLen b
  | .decByteReadRpcStrData b => encodeDecByte .readRpcStrData b
  | .decByteDone b => encodeDecByte .done b
  | .decStateUnused k b => encodeDecByte (.unused k) b
  | .enc cmd args => leadScript :: 0 :: cmd :: encodeStrings args
  | .take n => leadScript :: 1 :: encodeCount n
  | .drain => [leadScript, 2]
  | .encFail => [leadScript, 3]
  | .start => [leadScript, 4]
  | .feed bs => leadScript :: 5 :: encodeBytes bs
  | .decFail => [leadScript, 6]
  | .reset => [leadScript, 7]
  | .wifi ssid password => leadPseudo :: 0 :: encodeStrings [ssid, password]
  | .getState => [leadPseudo, 1]
  | .info => [leadPseudo, 2]
  | .scan => [leadPseudo, 3]

/-- The first byte of an instruction's encoding: which position of the table it stands at. -/
def leadOf : Instr → Byte
  | .currentState _ _ _ => leadFrame
  | .errorState _ _ _ => leadFrame
  | .rpcCommand (.produced _ _) => leadProduce
  | .rpcCommand (.received _ _ _) => leadFrame
  | .rpcResult _ _ _ => leadFrame
  | .unknownPacketType _ _ _ _ => leadFrame
  | .wifiSettings _ => leadCommandId
  | .currentStateCmd _ => leadCommandId
  | .deviceInfo _ => leadCommandId
  | .scanWifi _ => leadCommandId
  | .unassignedCommandId _ _ => leadCommandId
  | .decByteSyncHeader _ => leadDecByte
  | .decByteReadVersion _ => leadDecByte
  | .decByteReadType _ => leadDecByte
  | .decByteReadLength _ => leadDecByte
  | .decByteReadStateByte _ => leadDecByte
  | .decByteReadErrorByte _ => leadDecByte
  | .decByteReadRpcResponseCmd _ => leadDecByte
  | .decByteReadRpcDataLen _ => leadDecByte
  | .decByteReadRpcStrLen _ => leadDecByte
  | .decByteReadRpcStrData _ => leadDecByte
  | .decByteDone _ => leadDecByte
  | .decStateUnused _ _ => leadDecByte
  | .enc _ _ => leadScript
  | .take _ => leadScript
  | .drain => leadScript
  | .encFail => leadScript
  | .start => leadScript
  | .feed _ => leadScript
  | .decFail => leadScript
  | .reset => leadScript
  | .wifi _ _ => leadPseudo
  | .getState => leadPseudo
  | .info => leadPseudo
  | .scan => leadPseudo

/-- The bytes of a table word, the first word's least significant byte first. -/
def wordBytes : Nat → Nat → Bytes
  | 0, _ => []
  | k + 1, w => BitVec.ofNat 8 w :: wordBytes k (w / 256)

/-- The bytes that carry a table word. The table's rows stand at different positions and their codes overlap (0x01 is a
packet type, a command id and a decoder state), so a word alone does not say which row it is. A word of one byte is read as
the code of `dec.st`, with input byte 0; a longer one as the bytes of a frame from byte 7 on, the packet type first, every
byte after it zero. Log 14. -/
def tableBytes (nbits w : Nat) : Bytes :=
  if nbits ≤ 8 then [leadDecByte, BitVec.ofNat 8 w, 0]
  else Config.header ++ [Config.version] ++ wordBytes ((nbits + 7) / 8) w ++ List.replicate 258 0

/-- The instruction the decoder reads from a table word. -/
def decodeTableWord (nbits w : Nat) : Option Instr :=
  match decode (tableBytes nbits w) with
  | .ok (i, _) => some i
  | .error _ => none

end Sys2Proof
end

