-- ==== Sys2Proof/Machine/State.lean ====
section
/-! DEFINITION. The state of the block as plain data: the encoder's registers (10_state.md rules R15 to R19), the decoder's
(R20 to R27), the outputs (R14), and the host's side: what it still has to offer and what was turned away. The block has no
addressable memory (20_memory.md rule R35), no program counter (R29) and no flags (R30), so State has none. -/

namespace Sys2Proof.Machine

/-- `enc.st` (R15): Idle = 0, Emit = 1. -/
inductive EncSt where
  | idle
  | emit
deriving DecidableEq, Repr

/-- `enc.status` (R19): NONE = 0, SENT = 1, ENCODING_ERROR = 2, TRANSPORT_FAILURE = 3. -/
inductive EncStatus where
  | none
  | sent
  | encodingError
  | transportFailure
deriving DecidableEq, Repr

/-- `dec.reason` (R27): NONE = 0, STOPPED = 1, ERROR_STATE = 2, RPC_DONE = 3, RPC_EMPTY = 4, TRANSPORT_FAILURE = 5. The
unused codes 6 and 7 have no constructor, so no state holds them (U17). -/
inductive Reason where
  | none
  | stopped
  | errorState
  | rpcDone
  | rpcEmpty
  | transportFailure
deriving DecidableEq, Repr

/-- The events of R92, with raw values. -/
inductive Event where
  | currentState (v : Byte)
  | errorState (v : Byte)
  | rpcResult (c : Byte) (fields : List Bytes)
deriving DecidableEq, Repr

/-- One entry of the output trace (R14): a byte the encoder presented, or an event the decoder emitted. -/
inductive Output where
  | byte (b : Byte)
  | event (e : Event)
deriving DecidableEq, Repr

/-- The encoder's registers. -/
structure EncRegs where
  /-- control state (R15) -/
  st : EncSt
  /-- the body latched at acceptance (R16) -/
  body : Bytes
  /-- index of the next frame byte; 9 bits in hardware, range 0 to 265 (R17); log 13 -/
  idx : Nat
  /-- the checksum generator's accumulator (R18) -/
  csum : Byte
  /-- outcome of the last request (R19) -/
  status : EncStatus
deriving DecidableEq, Repr

/-- The decoder's registers. -/
structure DecRegs where
  /-- control state (R20) -/
  st : DecSt
  /-- sliding window, oldest byte first (R21) -/
  win : Bytes
  /-- recorded packet type (R22) -/
  ptype : Byte
  /-- recorded length (R22) -/
  flen : Byte
  /-- recorded response_to_command_id (R23) -/
  rcmd : Byte
  /-- remaining data_length, a signed integer; 9-bit two's complement in hardware (R24); log 13 -/
  dlen : Int
  /-- length of the current record (R25) -/
  slen : Byte
  /-- bytes of the current record so far (R25) -/
  cur : Bytes
  /-- completed records of the current row (R25) -/
  fields : List Bytes
  /-- why the run ended (R27) -/
  reason : Reason
deriving DecidableEq, Repr

/-- The state. `enc` and `dec` are the block (R9: two agents that share nothing); the rest is its outputs and the host. -/
structure State where
  /-- the encoder -/
  enc : EncRegs
  /-- the decoder -/
  dec : DecRegs
  /-- the output trace, in step order (R14); log 3 -/
  trace : List Output
  /-- bytes offered in `Done` and not consumed, since the run began (R66, R93); log 4 -/
  heldBytes : Bytes
  /-- requests offered in `Emit` and not accepted yet (R77); log 5 -/
  heldRequests : List (Byte × List Bytes)
  /-- the host operations not yet taken, as bytes: the model's own field; log 2 -/
  script : Bytes
deriving DecidableEq, Repr

/-- Why the machine stops with a fault. -/
inductive Fault where
  /-- A byte is offered to a decoder whose `dec.st` holds an unused code 11 to 15. Raised by every operation that offers a
  byte to the decoder. The spec asks for it: "`fault` if a model ever holds them" (U17, R20). Safe: no rule writes these codes. -/
  | unusedDecoderState
deriving DecidableEq, Repr

/-- Why the machine refuses an operation. -/
inductive Refusal where
  /-- Raised by exec's arm of an instruction that has no meaning yet. Safe: nothing is claimed of it. -/
  | notModelled (mnemonic : String)
  /-- Raised by a decoder-state row executed while `dec.st` is another state: the rule a `dec_byte` step runs is selected by
  `dec.st` (R65, R94), so the spec gives this row no effect there. No step raises it, since fetch reads the row from
  `dec.st`. Safe. Log 9. -/
  | decoderRuleNotSelected
  /-- Raised by `step` when the host's bytes are no operation of the model's own script encoding. Safe. Log 2. -/
  | malformedScript (e : DecodeError)
deriving DecidableEq, Repr

/-- The encoder's reset values (R34). -/
def EncRegs.reset : EncRegs :=
  { st := .idle, body := [], idx := 0, csum := 0, status := .none }

/-- The decoder's reset values (R34). -/
def DecRegs.reset : DecRegs :=
  { st := .syncHeader, win := [], ptype := 0, flen := 0, rcmd := 0, dlen := 0, slen := 0, cur := [], fields := [],
    reason := .none }

/-- The machine right after reset (R34, R143): the block at R34's values; nothing presented or emitted, nothing turned away,
nothing offered (logs 2 to 5). -/
def State.reset : State :=
  { enc := EncRegs.reset, dec := DecRegs.reset, trace := [], heldBytes := [], heldRequests := [], script := [] }

end Sys2Proof.Machine
end

