-- ==== Sys2Proof/Machine/Flags.lean ====
section
/-! DEFINITION. The block has no condition flags (10_state.md rule R30). What stands in for them: the ready indications (R14),
the conditions the rules test, and the numeric codes of the status outputs (R19, R27), the event kinds (R92) and the two
registers that the model holds as integers (R17, R24). -/

namespace Sys2Proof.Machine

/-- `enc_idle` (R14). -/
def encIdle (s : State) : Bool := decide (s.enc.st = .idle)

/-- `dec_ready` (R14). -/
def decReady (s : State) : Bool := decide (s.dec.st ≠ .done)

/-- The decoder state is one of the eleven the spec assigns, not an unused code (R20). -/
def assignedSt (st : DecSt) : Bool :=
  match st with
  | .unused _ => false
  | _ => true

/-- The 1-bit code of `enc.st` (R15). -/
def encStCode : EncSt → BitVec 1
  | .idle => 0
  | .emit => 1

/-- The 2-bit code of `enc.status` (R19). -/
def statusCode : EncStatus → BitVec 2
  | .none => 0
  | .sent => 1
  | .encodingError => 2
  | .transportFailure => 3

/-- The 3-bit code of `dec.reason` (R27). -/
def reasonCode : Reason → BitVec 3
  | .none => 0
  | .stopped => 1
  | .errorState => 2
  | .rpcDone => 3
  | .rpcEmpty => 4
  | .transportFailure => 5

/-- The kind code of an event: the packet type it came from (R92, D25). -/
def eventKind : Event → Byte
  | .currentState _ => Config.typeCurrentState
  | .errorState _ => Config.typeErrorState
  | .rpcResult _ _ => Config.typeRpcResult

/-- `enc.idx` as its 9-bit register (R17). -/
def idxBits (e : EncRegs) : BitVec 9 := BitVec.ofNat 9 e.idx

/-- `dec.dlen` as its 9-bit two's complement register (R24). -/
def dlenBits (d : DecRegs) : BitVec 9 := BitVec.ofInt 9 d.dlen

/-- The test of R98: the length byte is zero, so the frame is discarded. -/
def lengthIsZero (b : Byte) : Bool := decide (b = 0)

/-- The test of R105: the row is complete. It is `<= 0`, not `= 0` (C10). -/
def rowComplete (d : DecRegs) : Bool := decide (d.dlen ≤ 0)

/-- The test of R104: the current record is complete. -/
def recordComplete (d : DecRegs) : Bool := decide (d.cur.length = d.slen.toNat)

end Sys2Proof.Machine
end

