-- ==== Sys2Proof/Machine/Ops.lean ====
section
/-! DEFINITION. The operations every meaning is made of: the encoder's three inputs (40_encoder.md rules R76 to R80), the
decoder's rules one by one (41_decoder.md rules R95 to R106), terminal entry and the two ways out of it (60_exceptions.md
rules R130 and R132), one step of the block per input (00_scope.md rule R9), and the fetch of the host's next operation. -/

namespace Sys2Proof.Machine

/-- One outcome of this machine. -/
abbrev Result := Host.Outcome State Fault Refusal

/-- Goes on with `f` from a next state; a fault or a refusal stays. -/
def andThen (r : Result) (f : State → Result) : Result :=
  match r with
  | .next s => f s
  | .fault e => .fault e
  | .refused e => .refused e

/-! ### The encoder -/

/-- `enc_req(cmd, args)` in `Idle` (R76): a request that R70 finds invalid only sets the status, any other is latched. -/
def encRequest (cmd : Byte) (args : List Bytes) (e : EncRegs) : EncRegs :=
  if invalidArgs args then { e with status := .encodingError }
  else { st := .emit, body := requestBody cmd args, idx := 0, csum := 0, status := .none }

/-- The byte an `enc_take` presents (R78): a body byte, then the checksum, then the terminator. -/
def encPresented (e : EncRegs) : Byte :=
  if e.idx < e.body.length then e.body.getD e.idx 0
  else if e.idx = e.body.length then e.csum
  else Config.terminator

/-- The registers after an `enc_take` in `Emit` (R78). -/
def encAdvance (e : EncRegs) : EncRegs :=
  if e.idx < e.body.length then { e with csum := e.csum + e.body.getD e.idx 0, idx := e.idx + 1 }
  else if e.idx = e.body.length then { e with idx := e.body.length + 1 }
  else { e with idx := 0, st := .idle, status := .sent }

/-- `enc_fail` in `Emit` (R80). -/
def encAbandon (e : EncRegs) : EncRegs :=
  { e with st := .idle, status := .transportFailure, idx := 0 }

/-- How many `enc_take` steps the frame still needs before `enc_idle` (R78): none in `Idle`; in `Emit` the bytes from
`enc.idx` to the terminator. -/
def takesLeft (e : EncRegs) : Nat :=
  match e.st with
  | .idle => 0
  | .emit => (e.body.length + 1 - e.idx) + 1

/-! ### The decoder -/

/-- `terminate(reason)` (R130), the block's analogue of taking an exception: only `dec.st` and `dec.reason` change. -/
def terminate (r : Reason) (d : DecRegs) : DecRegs := { d with st := .done, reason := r }

/-- `finish_record()` (R105). -/
def finishRecord (d : DecRegs) : DecRegs × Option Event :=
  let d' := { d with fields := d.fields ++ [d.cur], cur := [] }
  if rowComplete d' then
    if d'.rcmd = Config.cmdScanWifi then
      ({ d' with fields := [], st := .syncHeader }, some (.rpcResult d'.rcmd d'.fields))
    else (terminate .rpcDone d', some (.rpcResult d'.rcmd d'.fields))
  else ({ d' with st := .readRpcStrLen }, none)

/-- The window after byte `b` (R95): a byte that `keep` rejects empties it. -/
def slideWindow (keep : Byte → Bool) (b : Byte) (win : Bytes) : Bytes :=
  if keep b then lastN Config.windowLen (win ++ [b]) else []

/-- `SyncHeader` (R95), for any `P_KEEP`. -/
def ruleSyncHeader (keep : Byte → Bool) (b : Byte) (d : DecRegs) : DecRegs × Option Event :=
  if slideWindow keep b d.win = Config.header then ({ d with win := [], st := .readVersion }, none)
  else ({ d with win := slideWindow keep b d.win }, none)

/-- `ReadVersion` (R96). -/
def ruleReadVersion (b : Byte) (d : DecRegs) : DecRegs × Option Event :=
  if b = Config.version then ({ d with st := .readType }, none) else ({ d with st := .syncHeader }, none)

/-- `ReadType` (R97). -/
def ruleReadType (b : Byte) (d : DecRegs) : DecRegs × Option Event :=
  ({ d with ptype := b, st := .readLength }, none)

/-- `ReadLength` (R98): the zero test first, then the packet type. -/
def ruleReadLength (b : Byte) (d : DecRegs) : DecRegs × Option Event :=
  let d' := { d with flen := b }
  if lengthIsZero b then ({ d' with st := .syncHeader }, none)
  else if d'.ptype = Config.typeRpcResult then ({ d' with fields := [], cur := [], st := .readRpcResponseCmd }, none)
  else if d'.ptype = Config.typeCurrentState then ({ d' with st := .readStateByte }, none)
  else if d'.ptype = Config.typeErrorState then ({ d' with st := .readErrorByte }, none)
  else ({ d' with st := .syncHeader }, none)

/-- `ReadStateByte` (R99). -/
def ruleReadStateByte (b : Byte) (d : DecRegs) : DecRegs × Option Event :=
  if b = 0 then (terminate .stopped d, some (.currentState b)) else ({ d with st := .syncHeader }, some (.currentState b))

/-- `ReadErrorByte` (R100). -/
def ruleReadErrorByte (b : Byte) (d : DecRegs) : DecRegs × Option Event :=
  (terminate .errorState d, some (.errorState b))

/-- `ReadRpcResponseCmd` (R101). -/
def ruleReadRpcResponseCmd (b : Byte) (d : DecRegs) : DecRegs × Option Event :=
  ({ d with rcmd := b, st := .readRpcDataLen }, none)

/-- `ReadRpcDataLen` (R102). -/
def ruleReadRpcDataLen (b : Byte) (d : DecRegs) : DecRegs × Option Event :=
  let d' := { d with dlen := (b.toNat : Int) }
  if b = 0 then (terminate .rpcEmpty d', none) else ({ d' with st := .readRpcStrLen }, none)

/-- `ReadRpcStrLen` (R103). -/
def ruleReadRpcStrLen (b : Byte) (d : DecRegs) : DecRegs × Option Event :=
  let d' := { d with dlen := d.dlen - 1, slen := b, cur := [] }
  if b = 0 then finishRecord d' else ({ d' with st := .readRpcStrData }, none)

/-- `ReadRpcStrData` (R104). -/
def ruleReadRpcStrData (b : Byte) (d : DecRegs) : DecRegs × Option Event :=
  let d' := { d with cur := d.cur ++ [b], dlen := d.dlen - 1 }
  if recordComplete d' then finishRecord d' else (d', none)

/-- The step function of R94: the rule is selected by `dec.st`. In `Done` (R93) and in an unused code (R20) no step exists, and
the registers stand as they were; the operations below that offer a byte never come to those two lines. -/
def decByteWith (keep : Byte → Bool) (b : Byte) (d : DecRegs) : DecRegs × Option Event :=
  match d.st with
  | .syncHeader => ruleSyncHeader keep b d
  | .readVersion => ruleReadVersion b d
  | .readType => ruleReadType b d
  | .readLength => ruleReadLength b d
  | .readStateByte => ruleReadStateByte b d
  | .readErrorByte => ruleReadErrorByte b d
  | .readRpcResponseCmd => ruleReadRpcResponseCmd b d
  | .readRpcDataLen => ruleReadRpcDataLen b d
  | .readRpcStrLen => ruleReadRpcStrLen b d
  | .readRpcStrData => ruleReadRpcStrData b d
  | .done => (d, none)
  | .unused _ => (d, none)

/-- A decoder run on its own: the registers and the events after the bytes `bs`, for any `P_KEEP` (R113). A byte that comes
in `Done` is not taken (R93). -/
def decRun (keep : Byte → Bool) : Bytes → DecRegs → DecRegs × List Event
  | [], d => (d, [])
  | b :: bs, d =>
    let r := decByteWith keep b d
    let q := decRun keep bs r.1
    (q.1, r.2.toList ++ q.2)

/-! ### Steps of the block over the whole state -/

/-- A decoder step lands: its registers are written and its event, if any, goes to the trace (R14). -/
def landDec (r : DecRegs × Option Event) (s : State) : State :=
  { s with dec := r.1, trace := s.trace ++ (r.2.map Output.event).toList }

/-- `enc_req` (R76). In `Emit` it is not accepted and the request stays with the host (R77); a request that is taken is no longer
held (log 5). -/
def offerRequest (cmd : Byte) (args : List Bytes) (s : State) : State :=
  match s.enc.st with
  | .idle => { s with enc := encRequest cmd args s.enc, heldRequests := s.heldRequests.erase (cmd, args) }
  | .emit => { s with heldRequests := s.heldRequests ++ [(cmd, args)] }

/-- `enc_take` (R78). In `Idle` it is not enabled and nothing happens (R79, vector F7). -/
def offerTake (s : State) : State :=
  match s.enc.st with
  | .idle => s
  | .emit => { s with enc := encAdvance s.enc, trace := s.trace ++ [.byte (encPresented s.enc)] }

/-- `enc_fail` (R80). In `Idle` it is not enabled and nothing happens (R80, vector F6). -/
def offerEncFail (s : State) : State :=
  match s.enc.st with
  | .idle => s
  | .emit => { s with enc := encAbandon s.enc }

/-- `dec_start` (R142): a fresh monitor run, from every decoder state. The host takes back the bytes it held (log 4). -/
def startRun (s : State) : State := { s with dec := DecRegs.reset, heldBytes := [] }

/-- A byte offered in `Done`: not consumed, it stays with the host (R93, R66). -/
def holdByte (b : Byte) (s : State) : State := { s with heldBytes := s.heldBytes ++ [b] }

/-- `dec_byte(b)` (R93, R94). -/
def offerByte (b : Byte) (s : State) : Result :=
  match s.dec.st with
  | .done => .next (holdByte b s)
  | .unused _ => .fault .unusedDecoderState
  | _ => .next (landDec (decByteWith Config.pKeep b s.dec) s)

/-- `dec_fail` (R106, R128). In `Done` it is not enabled and nothing happens (R132; log 4). `dec.win` keeps its value (R21, R130;
log 15). -/
def offerDecFail (s : State) : State :=
  match s.dec.st with
  | .done => s
  | _ => { s with dec := terminate .transportFailure { s.dec with cur := [], fields := [] } }

/-- `reset` (R141): both agents in one step; no byte, no event. What was presented and emitted before stays in the trace, and the
host takes back the bytes it held (log 4). -/
def resetBlock (s : State) : State := { s with enc := EncRegs.reset, dec := DecRegs.reset, heldBytes := [] }

/-- The seven inputs (R13). -/
inductive Input where
  | encReq (cmd : Byte) (args : List Bytes)
  | encTake
  | encFail
  | decStart
  | decByte (b : Byte)
  | decFail
  | reset
deriving DecidableEq, Repr

/-- One step of the block: one input, one agent, except `reset` (R9). -/
def applyInput (x : Input) (s : State) : Result :=
  match x with
  | .encReq cmd args => .next (offerRequest cmd args s)
  | .encTake => .next (offerTake s)
  | .encFail => .next (offerEncFail s)
  | .decStart => .next (startRun s)
  | .decByte b => offerByte b s
  | .decFail => .next (offerDecFail s)
  | .reset => .next (resetBlock s)

/-- The inputs of one host operation, in order (R66: an operation maps to one or more inputs). -/
def runInputs : List Input → State → Result
  | [], s => .next s
  | x :: xs, s => andThen (applyInput x s) (runInputs xs)

/-- `DRAIN` (R66): `enc_take` until `enc_idle`. -/
def drainFrame (s : State) : Result := runInputs (List.replicate (takesLeft s.enc) .encTake) s

/-- The bytes of a frame, or any bytes, offered to the decoder one `dec_byte` each. -/
def offerBytes (bs : Bytes) (s : State) : Result := runInputs (bs.map .decByte) s

/-- Runs a rule of the decoder-state position: only the state whose code the row is selects it (R65, R94). -/
def whenSelected (st : DecSt) (s : State) (r : Result) : Result :=
  if s.dec.st = st then r else .refused .decoderRuleNotSelected

/-! ### Fetch -/

/-- The bytes the next instruction is read from: the host's queue; where the host offers an input byte to the decoder, the code
of `dec.st` is the opcode (R65) and stands before the byte. -/
def fetchBytes (s : State) : Bytes :=
  match s.script with
  | [] => []
  | x :: r => if x = leadDecByte then x :: stByte s.dec.st :: r else x :: r

/-- What the host puts into its queue to have instruction `i` run next. -/
def queueBytes (i : Instr) : Bytes :=
  match encode i with
  | [] => []
  | x :: r => if x = leadDecByte then x :: r.drop 1 else x :: r

/-- The number of queue bytes that the instruction at the front of `bs` takes (all of them where there is none). -/
def firstLength (bs : Bytes) : Nat :=
  match decode bs with
  | .ok (_, q) => bs.length - q.length
  | .error _ => bs.length

/-- The state in which a table word is what the host offers next: for a word that is a code of `dec.st`, `dec.st` holds that
code and an input byte 0 waits; for a longer word its frame waits. Log 14. -/
def placeWord (s : State) (nbits w : Nat) : State :=
  if nbits ≤ 8 then
    { s with dec := { s.dec with st := stOfCode (BitVec.ofNat 4 w) }, script := leadDecByte :: 0 :: s.script }
  else
    { s with script := (tableBytes nbits w).take (firstLength (tableBytes nbits w)) ++ s.script }

end Sys2Proof.Machine
end

