-- ==== Sys2Proof/Machine/Commands.lean ====
section
/-! DEFINITION. The meanings of the `rpc.command_id` rows (30_encoding.md rule R61), in both places the code stands: as
`command_id` it is a request to the encoder (40_encoder.md rules R81 to R85); as `response_to_command_id` it is an RpcResult
frame, with the records given and the checksum and terminator of R48, that arrives at the decoder (R58, R105). Log 8. -/

namespace Sys2Proof.Machine

/-- The clean RpcResult frame with `response_to_command_id` `c` (R58) arrives. -/
def offerResult (c : Byte) (records : List Bytes) (s : State) : Result :=
  offerBytes (cleanFrame Config.typeRpcResult (rpcPayload c records)) s

/-- `WifiSettings` (R57, R81). -/
def execWifiSettings (form : WifiForm) (s : State) : Result :=
  match form with
  | .request ssid password => applyInput (.encReq Config.cmdWifiSettings [ssid, password]) s
  | .response records => offerResult Config.cmdWifiSettings records s

/-- `CurrentState` as a command id (R82). -/
def execCurrentStateCmd (form : PlainForm) (s : State) : Result :=
  match form with
  | .request => applyInput (.encReq Config.cmdCurrentState []) s
  | .response records => offerResult Config.cmdCurrentState records s

/-- `DeviceInfo` (R83). -/
def execDeviceInfo (form : PlainForm) (s : State) : Result :=
  match form with
  | .request => applyInput (.encReq Config.cmdDeviceInfo []) s
  | .response records => offerResult Config.cmdDeviceInfo records s

/-- `ScanWifi` (R84); its result row is not terminal (R105). -/
def execScanWifi (form : PlainForm) (s : State) : Result :=
  match form with
  | .request => applyInput (.encReq Config.cmdScanWifi []) s
  | .response records => offerResult Config.cmdScanWifi records s

/-- An unassigned command id: accepted by the encoder unchanged (R85), terminal in a result like any id but `ScanWifi` (R63). -/
def execUnassignedCommandId (cmd : Byte) (form : AnyCommandForm) (s : State) : Result :=
  match form with
  | .request args => applyInput (.encReq cmd args) s
  | .response records => offerResult cmd records s

end Sys2Proof.Machine
end

