-- ==== Sys2Proof/Machine/DecoderRules.lean ====
section
/-! DEFINITION. The meanings of the `decoder.state` rows: the rule a `dec_byte(b)` step runs in the state whose code the row is
(30_encoding.md rule R65, 41_decoder.md rules R93 to R104). -/

namespace Sys2Proof.Machine

/-- `dec_byte@SyncHeader` (R95), with the default `P_KEEP` (R6, D9). -/
def execDecByteSyncHeader (b : Byte) (s : State) : Result :=
  whenSelected .syncHeader s (.next (landDec (ruleSyncHeader Config.pKeep b s.dec) s))

/-- `dec_byte@ReadVersion` (R96). -/
def execDecByteReadVersion (b : Byte) (s : State) : Result :=
  whenSelected .readVersion s (.next (landDec (ruleReadVersion b s.dec) s))

/-- `dec_byte@ReadType` (R97). -/
def execDecByteReadType (b : Byte) (s : State) : Result :=
  whenSelected .readType s (.next (landDec (ruleReadType b s.dec) s))

/-- `dec_byte@ReadLength` (R98). -/
def execDecByteReadLength (b : Byte) (s : State) : Result :=
  whenSelected .readLength s (.next (landDec (ruleReadLength b s.dec) s))

/-- `dec_byte@ReadStateByte` (R99). -/
def execDecByteReadStateByte (b : Byte) (s : State) : Result :=
  whenSelected .readStateByte s (.next (landDec (ruleReadStateByte b s.dec) s))

/-- `dec_byte@ReadErrorByte` (R100). -/
def execDecByteReadErrorByte (b : Byte) (s : State) : Result :=
  whenSelected .readErrorByte s (.next (landDec (ruleReadErrorByte b s.dec) s))

/-- `dec_byte@ReadRpcResponseCmd` (R101). -/
def execDecByteReadRpcResponseCmd (b : Byte) (s : State) : Result :=
  whenSelected .readRpcResponseCmd s (.next (landDec (ruleReadRpcResponseCmd b s.dec) s))

/-- `dec_byte@ReadRpcDataLen` (R102). -/
def execDecByteReadRpcDataLen (b : Byte) (s : State) : Result :=
  whenSelected .readRpcDataLen s (.next (landDec (ruleReadRpcDataLen b s.dec) s))

/-- `dec_byte@ReadRpcStrLen` (R103). -/
def execDecByteReadRpcStrLen (b : Byte) (s : State) : Result :=
  whenSelected .readRpcStrLen s (.next (landDec (ruleReadRpcStrLen b s.dec) s))

/-- `dec_byte@ReadRpcStrData` (R104). -/
def execDecByteReadRpcStrData (b : Byte) (s : State) : Result :=
  whenSelected .readRpcStrData s (.next (landDec (ruleReadRpcStrData b s.dec) s))

/-- `dec_byte@Done` (R93): not enabled; the byte stays with the host. -/
def execDecByteDone (b : Byte) (s : State) : Result :=
  whenSelected .done s (.next (holdByte b s))

/-- A byte offered while `dec.st` holds an unused code (R20, U17): the fault U17 asks for. -/
def execDecStateUnused (k : Fin 5) (_b : Byte) (s : State) : Result :=
  whenSelected (.unused k) s (.fault .unusedDecoderState)

end Sys2Proof.Machine
end

