-- ==== Sys2Proof/Machine/Frames.lean ====
section
/-! DEFINITION. The meanings of the `frame.packet_type` rows (30_encoding.md rule R51): a frame on the wire, and what the block
does with it. A frame that arrives is offered to the decoder byte by byte, in the order of R48 (R37); nothing is assumed of
the state it arrives in, and bytes offered after a terminal condition are held (R93, R150). Log 7. -/

namespace Sys2Proof.Machine

/-- A `CurrentState` frame arrives (R99, R115). -/
def execCurrentState (payload : Bytes) (csum term : Byte) (s : State) : Result :=
  offerBytes (wireFrame Config.typeCurrentState payload csum term) s

/-- An `ErrorState` frame arrives (R100, R115, R131). -/
def execErrorState (payload : Bytes) (csum term : Byte) (s : State) : Result :=
  offerBytes (wireFrame Config.typeErrorState payload csum term) s

/-- An `RpcCommand` frame. Produced: the encoder is offered the request and, where it takes it, the frame is presented whole
(R73, R76, R78, R86); a busy encoder takes neither (R77). Received: the decoder has no state for the type and resyncs (R63,
R98, D29). -/
def execRpcCommand (form : RpcCommandForm) (s : State) : Result :=
  match form with
  | .produced cmd args =>
    match s.enc.st with
    | .idle => drainFrame (offerRequest cmd args s)
    | .emit => .next (offerRequest cmd args s)
  | .received payload csum term => offerBytes (wireFrame Config.typeRpcCommand payload csum term) s

/-- An `RpcResult` frame arrives (R101 to R105, R108, R115); its payload need not be well formed (R58). -/
def execRpcResult (payload : Bytes) (csum term : Byte) (s : State) : Result :=
  offerBytes (wireFrame Config.typeRpcResult payload csum term) s

/-- A frame of an unassigned packet type arrives (R63, R98). -/
def execUnknownPacketType (ptype : Byte) (payload : Bytes) (csum term : Byte) (s : State) : Result :=
  offerBytes (wireFrame ptype payload csum term) s

end Sys2Proof.Machine
end

