-- ==== Sys2Proof/Machine/HostScript.lean ====
section
/-! DEFINITION. The meanings of the host's operations (30_encoding.md rule R66) and pseudo-operations (R67): each is the inputs
R66 and R67 give it, in order. -/

namespace Sys2Proof.Machine

/-- `ENC cmd, s_1, ..., s_n` (R66, R76). -/
def execEnc (cmd : Byte) (args : List Bytes) (s : State) : Result := applyInput (.encReq cmd args) s

/-- `TAKE n` (R66, R78). -/
def execTake (n : Nat) (s : State) : Result := runInputs (List.replicate n .encTake) s

/-- `DRAIN` (R66, R78). -/
def execDrain (s : State) : Result := drainFrame s

/-- `ENCFAIL` (R66, R80). -/
def execEncFail (s : State) : Result := applyInput .encFail s

/-- `START` (R66, R142). -/
def execStart (s : State) : Result := applyInput .decStart s

/-- `FEED x_1 x_2 ...` (R66, R94). -/
def execFeed (bs : Bytes) (s : State) : Result := offerBytes bs s

/-- `DECFAIL` (R66, R106). -/
def execDecFail (s : State) : Result := applyInput .decFail s

/-- `RESET` (R66, R141). -/
def execReset (s : State) : Result := applyInput .reset s

/-- `WIFI ssid, password` = `ENC 0x01, ssid, password` (R67, R81). -/
def execWifi (ssid password : Bytes) (s : State) : Result :=
  applyInput (.encReq Config.cmdWifiSettings [ssid, password]) s

/-- `GETSTATE` = `ENC 0x02` (R67, R82). -/
def execGetState (s : State) : Result := applyInput (.encReq Config.cmdCurrentState []) s

/-- `INFO` = `ENC 0x03` (R67, R83). -/
def execInfo (s : State) : Result := applyInput (.encReq Config.cmdDeviceInfo []) s

/-- `SCAN` = `ENC 0x04` (R67, R84). -/
def execScan (s : State) : Result := applyInput (.encReq Config.cmdScanWifi []) s

end Sys2Proof.Machine
end

