-- ==== Sys2Proof/Machine/Dispatch.lean ====
section
/-! DEFINITION. The dispatch: one arm per row of spec/opcode_table.json. -/

namespace Sys2Proof.Machine

def exec (i : Instr) (s : State) : Host.Outcome State Fault Refusal :=
  match i with
  | .currentState payload csum term => Sys2Proof.Machine.execCurrentState payload csum term s
  | .errorState payload csum term => Sys2Proof.Machine.execErrorState payload csum term s
  | .rpcCommand form => Sys2Proof.Machine.execRpcCommand form s
  | .rpcResult payload csum term => Sys2Proof.Machine.execRpcResult payload csum term s
  | .unknownPacketType ptype payload csum term => Sys2Proof.Machine.execUnknownPacketType ptype payload csum term s
  | .wifiSettings form => Sys2Proof.Machine.execWifiSettings form s
  | .currentStateCmd form => Sys2Proof.Machine.execCurrentStateCmd form s
  | .deviceInfo form => Sys2Proof.Machine.execDeviceInfo form s
  | .scanWifi form => Sys2Proof.Machine.execScanWifi form s
  | .unassignedCommandId cmd form => Sys2Proof.Machine.execUnassignedCommandId cmd form s
  | .decByteSyncHeader b => Sys2Proof.Machine.execDecByteSyncHeader b s
  | .decByteReadVersion b => Sys2Proof.Machine.execDecByteReadVersion b s
  | .decByteReadType b => Sys2Proof.Machine.execDecByteReadType b s
  | .decByteReadLength b => Sys2Proof.Machine.execDecByteReadLength b s
  | .decByteReadStateByte b => Sys2Proof.Machine.execDecByteReadStateByte b s
  | .decByteReadErrorByte b => Sys2Proof.Machine.execDecByteReadErrorByte b s
  | .decByteReadRpcResponseCmd b => Sys2Proof.Machine.execDecByteReadRpcResponseCmd b s
  | .decByteReadRpcDataLen b => Sys2Proof.Machine.execDecByteReadRpcDataLen b s
  | .decByteReadRpcStrLen b => Sys2Proof.Machine.execDecByteReadRpcStrLen b s
  | .decByteReadRpcStrData b => Sys2Proof.Machine.execDecByteReadRpcStrData b s
  | .decByteDone b => Sys2Proof.Machine.execDecByteDone b s
  | .decStateUnused k b => Sys2Proof.Machine.execDecStateUnused k b s
  | .enc cmd args => Sys2Proof.Machine.execEnc cmd args s
  | .take n => Sys2Proof.Machine.execTake n s
  | .drain => Sys2Proof.Machine.execDrain s
  | .encFail => Sys2Proof.Machine.execEncFail s
  | .start => Sys2Proof.Machine.execStart s
  | .feed bs => Sys2Proof.Machine.execFeed bs s
  | .decFail => Sys2Proof.Machine.execDecFail s
  | .reset => Sys2Proof.Machine.execReset s
  | .wifi ssid password => Sys2Proof.Machine.execWifi ssid password s
  | .getState => Sys2Proof.Machine.execGetState s
  | .info => Sys2Proof.Machine.execInfo s
  | .scan => Sys2Proof.Machine.execScan s

end Sys2Proof.Machine
end

