-- ==== Sys2Proof/Machine/Step.lean ====
section
/-! DEFINITION. One step of the machine: the host's next operation is fetched, decoded and executed. With nothing offered the
block waits (70_reset_and_hazards.md rules R149, R155). Log 2, log 6. -/

namespace Sys2Proof.Machine

/-- One step. -/
def step (s : State) : Host.Outcome State Fault Refusal :=
  match s.script with
  | [] => .next s
  | _ :: _ =>
    match decode (fetchBytes s) with
    | .ok (i, rest) => exec i { s with script := rest }
    | .error e => .refused (.malformedScript e)

/-- The state in which the instruction of a table word is the next one fetched. -/
def State.withFetchWord (s : State) (nbits w : Nat) : State := placeWord s nbits w

end Sys2Proof.Machine
end

