-- ==== Sys2Proof/Machine/Display.lean ====
section
/-! DEFINITION. The host's functions beside the block: how a host shows an event (41_decoder.md rule R109, 30_encoding.md rule
R60), the parameters the spec leaves to it (D27, D31), and the four CLI flows as host sequences (R67). None is part of the
block (00_scope.md rule R4); no step calls them. Log 11. -/

namespace Sys2Proof.Machine

/-- The row an RpcResult is shown as: its fields joined by single spaces, 0x20 (R109). -/
def shownRow : List Bytes → Bytes
  | [] => []
  | [f] => f
  | f :: g :: fs => f ++ [0x20] ++ shownRow (g :: fs)

/-- `LABEL_STATE(v)`: the two known labels, and open wording for the rest (R60, D27). -/
def labelState (v : Byte) : String :=
  if v = 0 then "WiFi stopped" else if v = 2 then "Wifi authorized" else Config.openLabelState v

/-- `LABEL_ERROR(v)`: the one known label, and open wording for the rest (R60, D27). -/
def labelError (v : Byte) : String :=
  if v = 3 then "Unable to connect" else Config.openLabelError v

/-- `TEXT_TO_BYTES`: the ASCII codes of ASCII text; open on any other text (R91, D31). -/
def textToBytes (t : String) : Bytes :=
  if t.toList.all (fun c => decide (c.toNat < 128)) then t.toList.map (fun c => BitVec.ofNat 8 c.toNat)
  else Config.openTextToBytes t

/-- What a host shows for an event (R109): a label, or a row. -/
inductive Shown where
  | label (text : String)
  | row (bytes : Bytes)
deriving DecidableEq, Repr

/-- The output contract of R109. -/
def shown : Event → Shown
  | .currentState v => .label (labelState v)
  | .errorState v => .label (labelError v)
  | .rpcResult _ fs => .row (shownRow fs)

/-- `request_wifi_settings` (R67): `WIFI s, p` / `DRAIN` / `START` / `FEED ...`. -/
def requestWifiSettings (ssid password : String) (reply : Bytes) : List Instr :=
  [.wifi (textToBytes ssid) (textToBytes password), .drain, .start, .feed reply]

/-- `request_scan` (R67). -/
def requestScan (reply : Bytes) : List Instr := [.scan, .drain, .start, .feed reply]

/-- `request_device_info` (R67). -/
def requestDeviceInfo (reply : Bytes) : List Instr := [.info, .drain, .start, .feed reply]

/-- `request_current_state` (R67). -/
def requestCurrentState (reply : Bytes) : List Instr := [.getState, .drain, .start, .feed reply]

end Sys2Proof.Machine
end

