-- ==== Sys2Proof/Safety.lean ====
section
/-! DEFINITION. What counts as a good state and the words the statements use: the invariant of the encoder (10_state.md rules R15
to R19), of the decoder (R20 to R27, 41_decoder.md rule R111), of the whole machine; and which side of the block an operation
is on (40_encoder.md rule R90). -/

namespace Sys2Proof.Machine

/-- A body that an accepted request latches (R16, R73). -/
def IsRequestBody (body : Bytes) : Prop :=
  ∃ cmd args, invalidArgs args = false ∧ body = requestBody cmd args

/-- What holds of the encoder's registers in every state a run reaches. -/
structure EncInv (e : EncRegs) : Prop where
  /-- nothing latched yet, or the body of a valid request (R16) -/
  body : e.body = [] ∨ IsRequestBody e.body
  /-- the index is 0 between frames (R76, R78, R80) -/
  idle : e.st = .idle → e.idx = 0
  /-- while a frame goes out: its index is in range (R17), the accumulator is the sum of what has gone (R18, R86), and no
  outcome is set (R76) -/
  emit : e.st = .emit → IsRequestBody e.body ∧ e.idx ≤ e.body.length + 1 ∧
    e.csum = byteSum (e.body.take e.idx) ∧ e.status = .none

/-- What holds of the decoder's registers in every state a run reaches. -/
structure DecInv (d : DecRegs) : Prop where
  /-- no unused code (R20) -/
  assigned : assignedSt d.st = true
  /-- a reason is set exactly in `Done` (R27) -/
  reason : d.reason ≠ .none ↔ d.st = .done
  /-- the window is at most six bytes (R21, R26) -/
  winLength : d.win.length ≤ Config.windowLen
  /-- the window is empty outside `SyncHeader` (R111), but for a run that `dec_fail` ended there: R106 and R130 leave the window
  as it was (log 15) -/
  winEmpty : d.st ≠ .syncHeader → d.reason ≠ .transportFailure → d.win = []
  /-- a matched window is cleared at once (R95) -/
  winNoMatch : d.win ≠ Config.header
  /-- the range of `data_length` (R24, R26) -/
  dlenRange : -255 ≤ d.dlen ∧ d.dlen ≤ 255
  /-- the bound on records (R25, R26) -/
  fieldCount : d.fields.length ≤ Config.maxFields
  /-- the bound on one record (R25) -/
  fieldLength : ∀ f ∈ d.fields, f.length ≤ Config.maxFieldBytes
  /-- the bound on a row (R26) -/
  rowBytes : lengthSum d.fields + d.cur.length ≤ Config.maxRowBytes
  /-- a record is under way only in `ReadRpcStrData` (R103 to R106) -/
  curEmpty : d.st ≠ .readRpcStrData → d.cur = []
  /-- records are kept only inside a result and after a row that ended the run (R98, R105, R130) -/
  fieldsEmpty : d.st ≠ .readRpcStrLen → d.st ≠ .readRpcStrData → d.st ≠ .done → d.fields = []
  /-- before a record: `data_length` is at least 1 (R103) and what the records cost is accounted for (R26) -/
  atStrLen : d.st = .readRpcStrLen → 1 ≤ d.dlen ∧ (costSum d.fields : Int) + d.dlen ≤ 255
  /-- inside a record: not yet complete (R26), and `data_length` was not negative where it began -/
  atStrData : d.st = .readRpcStrData → d.cur.length < d.slen.toNat ∧ 0 ≤ d.dlen + d.cur.length ∧
    (costSum d.fields : Int) + 1 + d.cur.length + d.dlen ≤ 255

/-- The invariant of the machine; a byte is held only in `Done` (R93), since `START` and `RESET` empty the list (log 4). -/
structure Inv (s : State) : Prop where
  enc : EncInv s.enc
  dec : DecInv s.dec
  held : s.heldBytes ≠ [] → s.dec.st = .done

/-- The operation is on the encoder's side: its inputs are `enc_req`, `enc_take`, `enc_fail` (R13). -/
def encoderSide : Instr → Bool
  | .rpcCommand (.produced _ _) => true
  | .wifiSettings (.request _ _) => true
  | .currentStateCmd .request => true
  | .deviceInfo .request => true
  | .scanWifi .request => true
  | .unassignedCommandId _ (.request _) => true
  | .enc _ _ => true
  | .take _ => true
  | .drain => true
  | .encFail => true
  | .wifi _ _ => true
  | .getState => true
  | .info => true
  | .scan => true
  | .rpcCommand (.received _ _ _) => false
  | .wifiSettings (.response _) => false
  | .currentStateCmd (.response _) => false
  | .deviceInfo (.response _) => false
  | .scanWifi (.response _) => false
  | .unassignedCommandId _ (.response _) => false
  | .currentState _ _ _ => false
  | .errorState _ _ _ => false
  | .rpcResult _ _ _ => false
  | .unknownPacketType _ _ _ _ => false
  | .decByteSyncHeader _ => false
  | .decByteReadVersion _ => false
  | .decByteReadType _ => false
  | .decByteReadLength _ => false
  | .decByteReadStateByte _ => false
  | .decByteReadErrorByte _ => false
  | .decByteReadRpcResponseCmd _ => false
  | .decByteReadRpcDataLen _ => false
  | .decByteReadRpcStrLen _ => false
  | .decByteReadRpcStrData _ => false
  | .decByteDone _ => false
  | .decStateUnused _ _ => false
  | .start => false
  | .feed _ => false
  | .decFail => false
  | .reset => false

/-- The operation is on the decoder's side: its inputs are `dec_start`, `dec_byte`, `dec_fail` (R13). `RESET` is on neither
side: it reaches both (R9). -/
def decoderSide (i : Instr) : Bool := !encoderSide i && decide (i ≠ .reset)

/-- The bytes presented, in order (R14). -/
def bytesOf (tr : List Output) : Bytes :=
  tr.filterMap (fun o => match o with | .byte b => some b | .event _ => none)

/-- The events emitted, in order (R14). -/
def eventsOf (tr : List Output) : List Event :=
  tr.filterMap (fun o => match o with | .byte _ => none | .event e => some e)

/-- The input goes to the encoder (R13). -/
def encoderInput : Input → Bool
  | .encReq _ _ => true
  | .encTake => true
  | .encFail => true
  | _ => false

/-- The input goes to the decoder (R13). -/
def decoderInput : Input → Bool
  | .decStart => true
  | .decByte _ => true
  | .decFail => true
  | _ => false

end Sys2Proof.Machine
end

