-- ==== Sys2Proof/Certificates/Slice0/Obligations.lean ====
section
/-! DEFINITION. The statements for the provers, from the numbered rules of spec/. Each docstring names the rules it
formalises; a clause that rests on a choice of the model's names the log entry. -/

open Sys2Proof Sys2Proof.Machine

/-! ### Encoding, fetch and step -/

/-- Decoding an encoded well-formed instruction gives it back, whatever bytes follow (R48, R51, R61, R65 for the codes; the
marks and lead bytes are the model's, log 2). -/
def Obligations.DecodeOfEncodeGivesInstruction : Prop :=
  ∀ (i : Instr) (rest : Bytes), WellFormed i → decode (encode i ++ rest) = .ok (i, rest)

/-- Bytes that decode to an instruction are that instruction's encoding: no two byte strings mean the same instruction (R48,
R51, R61, R65; log 2). -/
def Obligations.EncodeOfDecodeGivesBytes : Prop :=
  ∀ (bs : Bytes) (i : Instr) (rest : Bytes), decode bs = .ok (i, rest) → WellFormed i ∧ bs = encode i ++ rest

/-- A step runs the instruction its bytes decode to, with the rest of the host's queue left; with nothing offered the machine
waits unchanged (R149, R155; log 2). -/
def Obligations.StepRunsDecodedInstruction : Prop :=
  (∀ (s : State) (i : Instr) (rest : Bytes), s.script ≠ [] → decode (fetchBytes s) = .ok (i, rest) →
    step s = exec i { s with script := rest }) ∧
  (∀ s : State, s.script = [] → step s = .next s)

/-- What the host queues for an instruction is what the next step runs; a decoder-state row is the one `dec.st` selects (R65;
log 2). -/
def Obligations.QueuedInstructionIsExecuted : Prop :=
  ∀ (i : Instr) (s : State) (rest : Bytes), WellFormed i → s.script = queueBytes i ++ rest →
    (∀ st b, i = decRow st b → s.dec.st = st) → step s = exec i { s with script := rest }

/-- A few words decode to the instruction they stand for, and one is rejected. The frames are written out from R48, R50 and R51;
of the other words only the codes of `dec.st` (R20), the command id (R61) and the input byte are the spec's: their lead bytes, the
place byte and the end mark are the model's own encoding (log 2). -/
def Obligations.WrittenWordsDecode : Prop :=
  decode [0x49, 0x4D, 0x50, 0x52, 0x4F, 0x56, 0x01, 0x01, 0x01, 0x02, 0xE2, 0x0A] = .ok (.currentState [0x02] 0xE2 0x0A, []) ∧
  decode [0x49, 0x4D, 0x50, 0x52, 0x4F, 0x56, 0x01, 0x02, 0x01, 0x03, 0xE4, 0x0A] = .ok (.errorState [0x03] 0xE4 0x0A, []) ∧
  decode [0x49, 0x4D, 0x50, 0x52, 0x4F, 0x56, 0x01, 0x07, 0x02, 0x09, 0x09, 0xF9, 0x0A] =
    .ok (.unknownPacketType 0x07 [0x09, 0x09] 0xF9 0x0A, []) ∧
  decode [leadDecByte, 0x07, 0x0D] = .ok (.decByteReadRpcDataLen 0x0D, []) ∧
  decode [leadDecByte, 0x0A, 0xE0] = .ok (.decByteDone 0xE0, []) ∧
  decode [leadCommandId, 0x04, 0x00, 0x00] = .ok (.scanWifi .request, []) ∧
  decode [0x49, 0x4D, 0x50, 0x52, 0x4F, 0x56, 0x02, 0x01, 0x01, 0x02, 0xE2, 0x0A] = .error .badFrame

/-! ### The encoder -/

/-- R70: when a request is invalid, that `build_command` answers only then with no frame, and that condition (a) never decides
alone. -/
def Obligations.RequestInvalidExactlyAboveCost253 : Prop :=
  ∀ (cmd : Byte) (args : List Bytes),
    (invalidArgs args = true ↔ ((∃ a ∈ args, 255 < a.length) ∨ 255 < 2 + (args.map (fun a => 1 + a.length)).sum)) ∧
    (invalidArgs args = true ↔ 253 < (args.map (fun a => 1 + a.length)).sum) ∧
    (invalidArgs args = false → ∀ a ∈ args, a.length ≤ 252) ∧
    (buildCommand cmd args = none ↔ invalidArgs args = true)

/-- R76: `enc_req` in `Idle`, both branches, with the body of R72 and R73 written out; nothing of the decoder moves and no byte
is presented. -/
def Obligations.RequestInIdleLatchesBodyOrRejects : Prop :=
  ∀ (s : State) (cmd : Byte) (args : List Bytes), s.enc.st = .idle →
    ∃ t, exec (.enc cmd args) s = .next t ∧ t.dec = s.dec ∧ t.trace = s.trace ∧
      t.enc =
        if (∃ a ∈ args, 255 < a.length) ∨ 255 < 2 + (args.map (fun a => 1 + a.length)).sum then
          { s.enc with status := .encodingError }
        else
          { st := .emit, idx := 0, csum := 0, status := .none,
            body := [0x49, 0x4D, 0x50, 0x52, 0x4F, 0x56, 0x01, 0x03,
                BitVec.ofNat 8 (2 + (args.map (fun a => 1 + a.length)).sum), cmd,
                BitVec.ofNat 8 (args.map (fun a => 1 + a.length)).sum] ++
              args.flatMap (fun a => BitVec.ofNat 8 a.length :: a) }

/-- R77, R147: in `Emit` no request of any form is accepted. The block does not move; that the machine goes on and lists the
request as held, and takes it off that list where `Idle` takes the request, is the model's (log 5). -/
def Obligations.RequestInEmitIsHeld : Prop :=
  (∀ (s : State) (cmd : Byte) (args : List Bytes) (ssid password : Bytes), s.enc.st = .emit →
    exec (.enc cmd args) s = .next { s with heldRequests := s.heldRequests ++ [(cmd, args)] } ∧
    exec (.unassignedCommandId cmd (.request args)) s = .next { s with heldRequests := s.heldRequests ++ [(cmd, args)] } ∧
    exec (.rpcCommand (.produced cmd args)) s = .next { s with heldRequests := s.heldRequests ++ [(cmd, args)] } ∧
    exec (.wifi ssid password) s = .next { s with heldRequests := s.heldRequests ++ [(0x01, [ssid, password])] } ∧
    exec (.wifiSettings (.request ssid password)) s =
      .next { s with heldRequests := s.heldRequests ++ [(0x01, [ssid, password])] } ∧
    exec .getState s = .next { s with heldRequests := s.heldRequests ++ [(0x02, [])] } ∧
    exec (.currentStateCmd .request) s = .next { s with heldRequests := s.heldRequests ++ [(0x02, [])] } ∧
    exec .info s = .next { s with heldRequests := s.heldRequests ++ [(0x03, [])] } ∧
    exec (.deviceInfo .request) s = .next { s with heldRequests := s.heldRequests ++ [(0x03, [])] } ∧
    exec .scan s = .next { s with heldRequests := s.heldRequests ++ [(0x04, [])] } ∧
    exec (.scanWifi .request) s = .next { s with heldRequests := s.heldRequests ++ [(0x04, [])] }) ∧
  (∀ (s : State) (cmd : Byte) (args : List Bytes), s.enc.st = .idle →
    ∃ t, exec (.enc cmd args) s = .next t ∧ t.heldRequests = s.heldRequests.erase (cmd, args))

/-- R81: the Wi-Fi request is latched exactly when the two strings have at most 251 bytes together; the rule's two frames. -/
def Obligations.WifiRequestLatchesTwoArguments : Prop :=
  (∀ (s : State) (ssid password : Bytes), s.enc.st = .idle →
    ∃ t, exec (.wifi ssid password) s = .next t ∧ t.dec = s.dec ∧ t.trace = s.trace ∧
      t.enc =
        if 251 < ssid.length + password.length then { s.enc with status := .encodingError }
        else
          { st := .emit, idx := 0, csum := 0, status := .none,
            body := [0x49, 0x4D, 0x50, 0x52, 0x4F, 0x56, 0x01, 0x03,
                BitVec.ofNat 8 (4 + ssid.length + password.length), 0x01,
                BitVec.ofNat 8 (2 + ssid.length + password.length), BitVec.ofNat 8 ssid.length] ++ ssid ++
              [BitVec.ofNat 8 password.length] ++ password }) ∧
  buildCommand 0x01 [[0x4D, 0x79, 0x53, 0x53, 0x49, 0x44], [0x4D, 0x79, 0x50, 0x61, 0x73, 0x73]] =
    some [0x49, 0x4D, 0x50, 0x52, 0x4F, 0x56, 0x01, 0x03, 0x10, 0x01, 0x0E, 0x06, 0x4D, 0x79, 0x53, 0x53, 0x49, 0x44, 0x06,
      0x4D, 0x79, 0x50, 0x61, 0x73, 0x73, 0x62, 0x0A] ∧
  buildCommand 0x01 [[], []] =
    some [0x49, 0x4D, 0x50, 0x52, 0x4F, 0x56, 0x01, 0x03, 0x04, 0x01, 0x02, 0x00, 0x00, 0xE8, 0x0A]

/-- R82, R83, R84: the requests without arguments are always latched from `Idle`, and their frames are the thirteen bytes the
rules print. -/
def Obligations.PlainRequestsAreAlwaysLatched : Prop :=
  (∀ (s : State), s.enc.st = .idle →
    ∀ p ∈ [((0x02 : Byte), Instr.getState), (0x03, Instr.info), (0x04, Instr.scan)],
      ∃ t, exec p.2 s = .next t ∧ t.dec = s.dec ∧ t.trace = s.trace ∧
        t.enc = { st := .emit, body := [0x49, 0x4D, 0x50, 0x52, 0x4F, 0x56, 0x01, 0x03, 0x02, p.1, 0x00], idx := 0,
                  csum := 0, status := .none }) ∧
  buildCommand 0x02 [] = some [0x49, 0x4D, 0x50, 0x52, 0x4F, 0x56, 0x01, 0x03, 0x02, 0x02, 0x00, 0xE5, 0x0A] ∧
  buildCommand 0x03 [] = some [0x49, 0x4D, 0x50, 0x52, 0x4F, 0x56, 0x01, 0x03, 0x02, 0x03, 0x00, 0xE6, 0x0A] ∧
  buildCommand 0x04 [] = some [0x49, 0x4D, 0x50, 0x52, 0x4F, 0x56, 0x01, 0x03, 0x02, 0x04, 0x00, 0xE7, 0x0A]

/-- R85: every command id is accepted and stands unchanged at payload offset 0 (body offset 9). -/
def Obligations.EveryCommandIdIsEncodedUnchanged : Prop :=
  ∀ (s : State) (cmd : Byte) (args : List Bytes), s.enc.st = .idle → (args.map (fun a => 1 + a.length)).sum ≤ 253 →
    ∃ t, exec (.enc cmd args) s = .next t ∧ t.dec = s.dec ∧ t.trace = s.trace ∧ t.enc.st = .emit ∧ t.enc.status = .none ∧
      t.enc.idx = 0 ∧ t.enc.csum = 0 ∧ t.enc.body[9]? = some cmd ∧
      t.enc.body.length = 11 + (args.map (fun a => 1 + a.length)).sum

/-- R78: one `enc_take` in `Emit`: a body byte, the checksum, or the terminator. -/
def Obligations.TakePresentsNextFrameByte : Prop :=
  ∀ (s : State), s.enc.st = .emit →
    exec (.take 1) s =
      match s.enc.body[s.enc.idx]? with
      | some b =>
        .next { s with enc := { s.enc with csum := s.enc.csum + b, idx := s.enc.idx + 1 }, trace := s.trace ++ [.byte b] }
      | none =>
        if s.enc.idx = s.enc.body.length then
          .next { s with enc := { s.enc with idx := s.enc.body.length + 1 }, trace := s.trace ++ [.byte s.enc.csum] }
        else
          .next { s with enc := { s.enc with idx := 0, st := .idle, status := .sent }, trace := s.trace ++ [.byte 0x0A] }

/-- R66, R78: `TAKE n` from any state presents as many bytes as there are left, at most n; while a frame goes out they are the
next bytes of that frame, and the encoder is idle again exactly when the last is taken. -/
def Obligations.TakeManyPresentsFrameInOrder : Prop :=
  (∀ (s : State) (n : Nat), ∃ (t : State) (out : Bytes), exec (.take n) s = .next t ∧ t.dec = s.dec ∧ t.heldBytes = s.heldBytes ∧
    t.heldRequests = s.heldRequests ∧ t.script = s.script ∧ t.enc.body = s.enc.body ∧
    out.length = min n (takesLeft s.enc) ∧ t.trace = s.trace ++ out.map Output.byte) ∧
  (∀ (s : State) (n : Nat), s.enc.st = .emit → EncInv s.enc →
    ∃ t, exec (.take n) s = .next t ∧
      t.trace = s.trace ++
        (((s.enc.body ++ [byteSum s.enc.body, 0x0A]).drop s.enc.idx).take n).map Output.byte ∧
      (t.enc.st = .idle ↔ s.enc.body.length + 2 ≤ s.enc.idx + n))

/-- R66, R78: `DRAIN` presents the rest of the frame, checksum and terminator included, and ends `Idle` with `SENT`. -/
def Obligations.DrainPresentsRestOfFrame : Prop :=
  ∀ (s : State), s.enc.st = .emit → EncInv s.enc →
    exec .drain s = .next { s with
      enc := { s.enc with st := .idle, idx := 0, csum := byteSum s.enc.body, status := .sent },
      trace := s.trace ++ ((s.enc.body ++ [byteSum s.enc.body, 0x0A]).drop s.enc.idx).map Output.byte }

/-- R86: an accepted request followed by 11 + L = 13 + S takes presents exactly `build_command`'s bytes and ends `Idle`, `SENT`. -/
def Obligations.StreamingEqualsBuildCommand : Prop :=
  ∀ (s : State) (cmd : Byte) (args : List Bytes) (f : Bytes), s.enc.st = .idle → buildCommand cmd args = some f →
    ∃ u t, exec (.enc cmd args) s = .next u ∧
      exec (.take (13 + (args.map (fun a => 1 + a.length)).sum)) u = .next t ∧
      t.trace = s.trace ++ f.map Output.byte ∧ t.enc.st = .idle ∧ t.enc.status = .sent ∧ t.dec = s.dec

/-- An RpcCommand frame that the encoder produces (R73, R75, R78): from `Idle` the whole frame is presented, or the request is
rejected and no byte is. That the row stands for the whole frame is the model's reading (log 7). -/
def Obligations.RpcCommandFrameIsPresentedWhole : Prop :=
  ∀ (s : State) (cmd : Byte) (args : List Bytes), s.enc.st = .idle →
    ∃ t, exec (.rpcCommand (.produced cmd args)) s = .next t ∧ t.dec = s.dec ∧ t.enc.st = .idle ∧
      match buildCommand cmd args with
      | some f => t.trace = s.trace ++ f.map Output.byte ∧ t.enc.status = .sent ∧ f = t.enc.body ++ [t.enc.csum, 0x0A]
      | none => t.trace = s.trace ∧ t.enc = { s.enc with status := .encodingError }

/-- R80: `enc_fail` in `Emit` abandons the frame: what was presented stays presented, and the rest never is. That takes in `Idle`,
for which R79 has no step, answer a next state is the model's choice (log 4). -/
def Obligations.EncFailAbandonsFrame : Prop :=
  ∀ (s : State), s.enc.st = .emit →
    ∃ t, exec .encFail s = .next t ∧
      t = { s with enc := { s.enc with st := .idle, status := .transportFailure, idx := 0 } } ∧
      ∀ n, ∃ u, exec (.take n) t = .next u ∧ u.trace = s.trace

/-- R79, R80, R106: an input that is not enabled moves nothing: takes, drains and write failures in `Idle`, a read failure in
`Done` (vectors F6, F7). That the machine goes on from it is the model's (log 4). -/
def Obligations.InputsNotEnabledChangeNothing : Prop :=
  (∀ (s : State) (n : Nat), s.enc.st = .idle →
    exec (.take n) s = .next s ∧ exec .drain s = .next s ∧ exec .encFail s = .next s) ∧
  (∀ (s : State), s.dec.st = .done → exec .decFail s = .next s)

/-- R74, R87: the checksum byte of every frame is the sum of the bytes before it modulo 256, and the closed form of R74. -/
def Obligations.ChecksumOfEveryFrame : Prop :=
  ∀ (cmd : Byte) (args : List Bytes) (f : Bytes), buildCommand cmd args = some f →
    (∃ c, f[f.length - 2]? = some c ∧ c.toNat = ((f.take (f.length - 2)).map BitVec.toNat).sum % 256 ∧
      c.toNat = (225 + (rpcPayload cmd args).length + ((rpcPayload cmd args).map BitVec.toNat).sum) % 256) ∧
    f[f.length - 1]? = some 0x0A

/-- R88: `parse_command` reads every valid request back from its frame. -/
def Obligations.ParseCommandInvertsBuildCommand : Prop :=
  ∀ (cmd : Byte) (args : List Bytes) (f : Bytes), buildCommand cmd args = some f → parseCommand f = some (cmd, args)

/-- R89: the length law. -/
def Obligations.FrameLengthLaw : Prop :=
  ∀ (cmd : Byte) (args : List Bytes) (f : Bytes), buildCommand cmd args = some f →
    f.length = 13 + (args.map (fun a => 1 + a.length)).sum ∧
    ∃ l d, f[8]? = some l ∧ f[10]? = some d ∧ d.toNat = (args.map (fun a => 1 + a.length)).sum ∧
      l.toNat = 2 + d.toNat ∧ f.length = 11 + l.toNat

/-! ### The decoder, one rule per state -/

/-- R95, with the default `P_KEEP` of R6: the window slides, or is emptied; a match clears it and moves on. -/
def Obligations.SyncHeaderSlidesWindow : Prop :=
  ∀ (s : State) (b : Byte), s.dec.st = .syncHeader →
    exec (.decByteSyncHeader b) s =
      if 0x20 ≤ b.toNat ∧ b.toNat ≤ 0x7E then
        if (s.dec.win ++ [b]).drop (s.dec.win.length + 1 - 6) = [0x49, 0x4D, 0x50, 0x52, 0x4F, 0x56] then
          .next { s with dec := { s.dec with win := [], st := .readVersion } }
        else .next { s with dec := { s.dec with win := (s.dec.win ++ [b]).drop (s.dec.win.length + 1 - 6) } }
      else .next { s with dec := { s.dec with win := [] } }

/-- R96. -/
def Obligations.ReadVersionAcceptsOnlyVersionOne : Prop :=
  ∀ (s : State) (b : Byte), s.dec.st = .readVersion →
    exec (.decByteReadVersion b) s =
      .next { s with dec := { s.dec with st := if b = 0x01 then .readType else .syncHeader } }

/-- R97. -/
def Obligations.ReadTypeRecordsPacketType : Prop :=
  ∀ (s : State) (b : Byte), s.dec.st = .readType →
    exec (.decByteReadType b) s = .next { s with dec := { s.dec with ptype := b, st := .readLength } }

/-- R98: the zero test first, then the packet type recorded. -/
def Obligations.ReadLengthSelectsByPacketType : Prop :=
  ∀ (s : State) (b : Byte), s.dec.st = .readLength →
    exec (.decByteReadLength b) s =
      .next { s with dec :=
        if b = 0 then { s.dec with flen := b, st := .syncHeader }
        else if s.dec.ptype = 0x04 then { s.dec with flen := b, fields := [], cur := [], st := .readRpcResponseCmd }
        else if s.dec.ptype = 0x01 then { s.dec with flen := b, st := .readStateByte }
        else if s.dec.ptype = 0x02 then { s.dec with flen := b, st := .readErrorByte }
        else { s.dec with flen := b, st := .syncHeader } }

/-- R99. -/
def Obligations.ReadStateByteEmitsCurrentState : Prop :=
  ∀ (s : State) (b : Byte), s.dec.st = .readStateByte →
    exec (.decByteReadStateByte b) s =
      .next { s with
        dec := if b = 0 then { s.dec with st := .done, reason := .stopped } else { s.dec with st := .syncHeader },
        trace := s.trace ++ [.event (.currentState b)] }

/-- R100. -/
def Obligations.ReadErrorByteEmitsAndTerminates : Prop :=
  ∀ (s : State) (b : Byte), s.dec.st = .readErrorByte →
    exec (.decByteReadErrorByte b) s =
      .next { s with dec := { s.dec with st := .done, reason := .errorState },
                     trace := s.trace ++ [.event (.errorState b)] }

/-- R101. -/
def Obligations.ReadRpcResponseCmdRecordsCommand : Prop :=
  ∀ (s : State) (b : Byte), s.dec.st = .readRpcResponseCmd →
    exec (.decByteReadRpcResponseCmd b) s = .next { s with dec := { s.dec with rcmd := b, st := .readRpcDataLen } }

/-- R102: zero is terminal for every recorded command, with no event. -/
def Obligations.ReadRpcDataLenEndsOnZero : Prop :=
  ∀ (s : State) (b : Byte), s.dec.st = .readRpcDataLen →
    exec (.decByteReadRpcDataLen b) s =
      .next { s with dec :=
        if b = 0 then { s.dec with dlen := 0, st := .done, reason := .rpcEmpty }
        else { s.dec with dlen := b.toNat, st := .readRpcStrLen } }

/-- R103 with R105: the length byte costs one; an empty record completes at once. -/
def Obligations.ReadRpcStrLenStartsOrFinishesRecord : Prop :=
  ∀ (s : State) (b : Byte), s.dec.st = .readRpcStrLen →
    exec (.decByteReadRpcStrLen b) s =
      if b = 0 then
        if s.dec.dlen - 1 ≤ 0 then
          .next { s with
            dec := if s.dec.rcmd = 0x04
              then { s.dec with dlen := s.dec.dlen - 1, slen := 0, cur := [], fields := [], st := .syncHeader }
              else { s.dec with dlen := s.dec.dlen - 1, slen := 0, cur := [], fields := s.dec.fields ++ [[]], st := .done,
                                reason := .rpcDone },
            trace := s.trace ++ [.event (.rpcResult s.dec.rcmd (s.dec.fields ++ [[]]))] }
        else
          .next { s with dec := { s.dec with dlen := s.dec.dlen - 1, slen := 0, cur := [], fields := s.dec.fields ++ [[]] } }
      else .next { s with dec := { s.dec with dlen := s.dec.dlen - 1, slen := b, cur := [], st := .readRpcStrData } }

/-- R104 with R105: a data byte is appended; the record completes at `dec.slen` bytes, and the row where `data_length` is then
at most 0. -/
def Obligations.ReadRpcStrDataAppendsOrFinishesRecord : Prop :=
  ∀ (s : State) (b : Byte), s.dec.st = .readRpcStrData →
    exec (.decByteReadRpcStrData b) s =
      if s.dec.cur.length + 1 = s.dec.slen.toNat then
        if s.dec.dlen - 1 ≤ 0 then
          .next { s with
            dec := if s.dec.rcmd = 0x04
              then { s.dec with dlen := s.dec.dlen - 1, cur := [], fields := [], st := .syncHeader }
              else { s.dec with dlen := s.dec.dlen - 1, cur := [], fields := s.dec.fields ++ [s.dec.cur ++ [b]],
                                st := .done, reason := .rpcDone },
            trace := s.trace ++ [.event (.rpcResult s.dec.rcmd (s.dec.fields ++ [s.dec.cur ++ [b]]))] }
        else
          .next { s with dec := { s.dec with dlen := s.dec.dlen - 1, cur := [], st := .readRpcStrLen,
                                             fields := s.dec.fields ++ [s.dec.cur ++ [b]] } }
      else .next { s with dec := { s.dec with cur := s.dec.cur ++ [b], dlen := s.dec.dlen - 1 } }

/-- R93, R66: a byte offered in `Done` is not consumed and is held; nothing else changes. -/
def Obligations.ByteInDoneIsHeld : Prop :=
  ∀ (s : State) (b : Byte), s.dec.st = .done →
    exec (.decByteDone b) s = .next { s with heldBytes := s.heldBytes ++ [b] } ∧
    exec (.feed [b]) s = .next { s with heldBytes := s.heldBytes ++ [b] }

/-- R20, U17: a byte offered while `dec.st` holds an unused code is a fault, offered by the row of those codes or by `FEED`. That
the model can hold these codes is log 12. The row never answers a next state: where `dec.st` holds another state exec refuses it,
which is the model's reading of R65 (log 9). -/
def Obligations.UnusedDecoderStateFaults : Prop :=
  (∀ (s : State) (k : Fin 5) (b : Byte) (bs : Bytes), s.dec.st = .unused k →
    exec (.decStateUnused k b) s = .fault .unusedDecoderState ∧
    exec (.feed (b :: bs)) s = .fault .unusedDecoderState) ∧
  (∀ (s t : State) (k : Fin 5) (b : Byte), exec (.decStateUnused k b) s ≠ .next t)

/-- R65, R94: a fed byte runs the row that `dec.st` selects, in every state; more bytes run one after another (R66). -/
def Obligations.FeedRunsSelectedRow : Prop :=
  (∀ (s : State) (b : Byte), exec (.feed [b]) s = exec (decRow s.dec.st b) s) ∧
  (∀ (s : State) (b : Byte) (bs : Bytes), exec (.feed (b :: bs)) s = andThen (exec (.feed [b]) s) (exec (.feed bs))) ∧
  (∀ (s : State), exec (.feed []) s = .next s)

/-- R66, R93, R94, R130: `FEED` takes bytes up to the first terminal condition, runs the decoder over them, and holds the rest,
in order; the encoder does not move. -/
def Obligations.FeedTakesBytesUpToDone : Prop :=
  ∀ (s : State) (bs : Bytes), assignedSt s.dec.st = true →
    ∃ k t, exec (.feed bs) s = .next t ∧ k ≤ bs.length ∧ t.enc = s.enc ∧ t.heldRequests = s.heldRequests ∧
      t.script = s.script ∧
      t.dec = (decRun Config.pKeep (bs.take k) s.dec).1 ∧
      t.trace = s.trace ++ (decRun Config.pKeep (bs.take k) s.dec).2.map Output.event ∧
      t.heldBytes = s.heldBytes ++ bs.drop k ∧
      (∀ j, j < k → (decRun Config.pKeep (bs.take j) s.dec).1.st ≠ .done) ∧
      (k < bs.length → t.dec.st = .done)

/-! ### Frames at the decoder -/

/-- A frame that arrives is its wire bytes (R48) fed to the decoder, for every packet type; that the packet-type rows stand for
whole frames is the model's reading (log 7). -/
def Obligations.FrameRowsFeedWireBytes : Prop :=
  ∀ (s : State) (ptype : Byte) (payload : Bytes) (csum term : Byte),
    let wire : Byte → Bytes := fun t =>
      [0x49, 0x4D, 0x50, 0x52, 0x4F, 0x56, 0x01, t, BitVec.ofNat 8 payload.length] ++ payload ++ [csum, term]
    exec (.currentState payload csum term) s = exec (.feed (wire 0x01)) s ∧
    exec (.errorState payload csum term) s = exec (.feed (wire 0x02)) s ∧
    exec (.rpcCommand (.received payload csum term)) s = exec (.feed (wire 0x03)) s ∧
    exec (.rpcResult payload csum term) s = exec (.feed (wire 0x04)) s ∧
    exec (.unknownPacketType ptype payload csum term) s = exec (.feed (wire ptype)) s

/-- R115 for `CurrentState`: one event; `Stopped` ends the run with the checksum and terminator held, any other value leaves
them as noise. -/
def Obligations.CleanStateFrameEmitsCurrentState : Prop :=
  ∀ (s : State) (v csum term : Byte), s.dec.st = .syncHeader → s.dec.win = [] →
    exec (.currentState [v] csum term) s =
      .next { s with
        dec := if v = 0 then { s.dec with ptype := 0x01, flen := 1, st := .done, reason := .stopped }
          else { s.dec with ptype := 0x01, flen := 1,
                            win := slideWindow Config.pKeep term (slideWindow Config.pKeep csum []) },
        trace := s.trace ++ [.event (.currentState v)],
        heldBytes := if v = 0 then s.heldBytes ++ [csum, term] else s.heldBytes }

/-- R115 for `ErrorState`, R131: one event, and the run ends for every value. -/
def Obligations.CleanErrorFrameTerminates : Prop :=
  ∀ (s : State) (v csum term : Byte), s.dec.st = .syncHeader → s.dec.win = [] →
    exec (.errorState [v] csum term) s =
      .next { s with
        dec := { s.dec with ptype := 0x02, flen := 1, st := .done, reason := .errorState },
        trace := s.trace ++ [.event (.errorState v)],
        heldBytes := s.heldBytes ++ [csum, term] }

/-- R115 for `RpcResult`, with R58, R102, R105: a well-formed result emits its records in one event; it ends the run unless its
command is `ScanWifi`; an empty one ends the run with no event. That the row stands for the whole frame is the model's reading
(log 7). -/
def Obligations.CleanResultFrameEmitsItsRecords : Prop :=
  ∀ (s : State) (c csum term : Byte) (records : List Bytes), s.dec.st = .syncHeader → s.dec.win = [] →
    (records.map (fun r => 1 + r.length)).sum ≤ 253 →
    ∃ t, exec (.rpcResult (rpcPayload c records) csum term) s = .next t ∧ t.enc = s.enc ∧ t.dec.rcmd = c ∧
      (records = [] → t.trace = s.trace ∧ t.dec.st = .done ∧ t.dec.reason = .rpcEmpty ∧ t.dec.dlen = 0 ∧
        t.heldBytes = s.heldBytes ++ [csum, term]) ∧
      (records ≠ [] → t.trace = s.trace ++ [.event (.rpcResult c records)] ∧ t.dec.dlen = 0 ∧ t.dec.cur = [] ∧
        (c ≠ 0x04 → t.dec.st = .done ∧ t.dec.reason = .rpcDone ∧ t.dec.fields = records ∧
          t.heldBytes = s.heldBytes ++ [csum, term]) ∧
        (c = 0x04 → t.dec.st = .syncHeader ∧ t.dec.reason = s.dec.reason ∧ t.dec.fields = [] ∧
          t.heldBytes = s.heldBytes))

/-- R115, R98, R63: a frame of length 0 is discarded whatever its type; a frame of a type the decoder does not handle leaves
its payload, checksum and terminator to `SyncHeader` as noise (R62). -/
def Obligations.DiscardedFramesResync : Prop :=
  (∀ (s : State) (ptype csum term : Byte), s.dec.st = .syncHeader → s.dec.win = [] →
    ∀ p ∈ [((0x01 : Byte), Instr.currentState [] csum term), (0x02, Instr.errorState [] csum term),
        (0x03, Instr.rpcCommand (.received [] csum term)), (0x04, Instr.rpcResult [] csum term),
        (ptype, Instr.unknownPacketType ptype [] csum term)],
      exec p.2 s = .next { s with
        dec := { s.dec with
          ptype := p.1, flen := 0, win := slideWindow Config.pKeep term (slideWindow Config.pKeep csum []) } }) ∧
  (∀ (s : State) (ptype csum term : Byte) (payload : Bytes), s.dec.st = .syncHeader → s.dec.win = [] →
    payload.length ≤ 255 → ptype ≠ 0x01 → ptype ≠ 0x02 → ptype ≠ 0x04 →
    ∀ i ∈ [Instr.unknownPacketType ptype payload csum term] ++
        (if ptype = 0x03 then [Instr.rpcCommand (.received payload csum term)] else []),
      ∃ t, exec i s = .next t ∧
        exec (.feed (payload ++ [csum, term]))
          { s with dec := { s.dec with ptype := ptype, flen := BitVec.ofNat 8 payload.length } } = .next t)

/-- R61: a command id stands in a request and in a result. As a request the row is the `enc_req` with that id (R81 to R85); as a
result (R58, R105) its row is emitted, only `ScanWifi`'s leaves the decoder running, and an empty one ends the run (C6). That
the id rows take these two forms is the model's reading (log 8); that the machine goes on from a request in `Emit`, for which R77
has no step, is the model's choice (log 5). -/
def Obligations.CommandIdRowsAreRequestsOrResults : Prop :=
  (∀ (s : State) (cmd : Byte) (args : List Bytes) (ssid password : Bytes),
    ∀ p ∈ [(Instr.wifiSettings (.request ssid password), Instr.enc 0x01 [ssid, password]),
        (Instr.currentStateCmd .request, Instr.enc 0x02 []), (Instr.deviceInfo .request, Instr.enc 0x03 []),
        (Instr.scanWifi .request, Instr.enc 0x04 []),
        (Instr.unassignedCommandId cmd (.request args), Instr.enc cmd args)],
      ∃ t, exec p.1 s = .next t ∧ exec p.2 s = .next t) ∧
  (∀ (s : State) (cmd : Byte) (records : List Bytes), s.dec.st = .syncHeader → s.dec.win = [] →
    (records.map (fun r => 1 + r.length)).sum ≤ 253 →
    ∀ p ∈ [((0x01 : Byte), Instr.wifiSettings (.response records)), (0x02, Instr.currentStateCmd (.response records)),
        (0x03, Instr.deviceInfo (.response records)), (0x04, Instr.scanWifi (.response records)),
        (cmd, Instr.unassignedCommandId cmd (.response records))],
      ∃ t, exec p.2 s = .next t ∧ t.enc = s.enc ∧ t.dec.rcmd = p.1 ∧
        t.trace = (if records = [] then s.trace else s.trace ++ [.event (.rpcResult p.1 records)]) ∧
        t.dec.st = (if records ≠ [] ∧ p.1 = 0x04 then .syncHeader else .done) ∧
        t.dec.reason = (if records = [] then .rpcEmpty else if p.1 = 0x04 then s.dec.reason else .rpcDone))

/-! ### Terminal entry, restart, reset -/

/-- R106: `dec_fail` discards the partial row, emits nothing and ends the run. That `dec.win` stays as it was after a failure in
`SyncHeader` follows R106, R130 and R21 against R111 (log 15); that it ends the run from an unused code too is log 12. -/
def Obligations.DecFailDiscardsPartialRow : Prop :=
  ∀ (s : State), s.dec.st ≠ .done →
    exec .decFail s =
      .next { s with dec := { s.dec with cur := [], fields := [], st := .done, reason := .transportFailure } }

/-- R142: `dec_start` in every state sets every decoder register, emits nothing and does not touch the encoder. That the trace
before it is kept is the model's choice (log 3). -/
def Obligations.StartSetsEveryDecoderRegister : Prop :=
  ∀ (s : State), ∃ t, exec .start s = .next t ∧ t.enc = s.enc ∧ t.trace = s.trace ∧
    t.dec = { st := .syncHeader, win := [], ptype := 0, flen := 0, rcmd := 0, dlen := 0, slen := 0, cur := [], fields := [],
              reason := .none }

/-- R141: `reset` in every state sets every register of both agents and emits nothing. That the trace before it is kept, not
cleared, is the model's choice (log 3). -/
def Obligations.ResetSetsEveryRegister : Prop :=
  ∀ (s : State), ∃ t, exec .reset s = .next t ∧ t.trace = s.trace ∧
    t.enc = { st := .idle, body := [], idx := 0, csum := 0, status := .none } ∧
    t.dec = { st := .syncHeader, win := [], ptype := 0, flen := 0, rcmd := 0, dlen := 0, slen := 0, cur := [], fields := [],
              reason := .none }

/-- R34, R143: the state after reset, in the codes of R15, R19, R20 and R27, with both agents ready. -/
def Obligations.StateAfterReset : Prop :=
  encStCode State.reset.enc.st = 0 ∧ State.reset.enc.body = [] ∧ idxBits State.reset.enc = 0 ∧ State.reset.enc.csum = 0 ∧
  statusCode State.reset.enc.status = 0 ∧ stCode State.reset.dec.st = 0 ∧ State.reset.dec.win = [] ∧
  State.reset.dec.ptype = 0 ∧ State.reset.dec.flen = 0 ∧ State.reset.dec.rcmd = 0 ∧ dlenBits State.reset.dec = 0 ∧
  State.reset.dec.slen = 0 ∧ State.reset.dec.cur = [] ∧ State.reset.dec.fields = [] ∧
  reasonCode State.reset.dec.reason = 0 ∧ encIdle State.reset = true ∧ decReady State.reset = true

/-- R132: no operation but `START` and `RESET` moves a decoder register once it is in `Done`, and those two restore nothing: they
set every decoder register to its reset value. -/
def Obligations.OnlyStartAndResetLeaveDone : Prop :=
  ∀ (i : Instr) (s t : State), s.dec.st = .done → exec i s = .next t →
    (i ≠ .start → i ≠ .reset → t.dec = s.dec) ∧ (i = .start ∨ i = .reset → t.dec = State.reset.dec)

/-- R110: the complete list of the ways an input ends a run, with the event first and the reason. -/
def Obligations.TerminalCausesAreComplete : Prop :=
  ∀ (x : Input) (s t : State), applyInput x s = .next t → s.dec.st ≠ .done →
    (t.dec.st = .done ↔
      (x = .decByte 0 ∧ s.dec.st = .readStateByte ∧ t.trace = s.trace ++ [.event (.currentState 0)] ∧
        t.dec.reason = .stopped) ∨
      (∃ v, x = .decByte v ∧ s.dec.st = .readErrorByte ∧ t.trace = s.trace ++ [.event (.errorState v)] ∧
        t.dec.reason = .errorState) ∨
      (∃ b fs, x = .decByte b ∧ (s.dec.st = .readRpcStrLen ∨ s.dec.st = .readRpcStrData) ∧ fs ≠ [] ∧ s.dec.rcmd ≠ 0x04 ∧
        t.trace = s.trace ++ [.event (.rpcResult s.dec.rcmd fs)] ∧ t.dec.reason = .rpcDone) ∨
      (x = .decByte 0 ∧ s.dec.st = .readRpcDataLen ∧ t.trace = s.trace ∧ t.dec.reason = .rpcEmpty) ∨
      (x = .decFail ∧ t.trace = s.trace ∧ t.dec.reason = .transportFailure))

/-! ### Whole-machine rules -/

/-- R14, R92: an input produces at most one output; a byte comes only from `enc_take`, an event only from `dec_byte`, and the
kind code of an event is the packet type it came from. -/
def Obligations.OneOutputPerInput : Prop :=
  ∀ (x : Input) (s t : State), applyInput x s = .next t →
    t.trace = s.trace ∨
    (x = .encTake ∧ ∃ b, t.trace = s.trace ++ [.byte b]) ∨
    (∃ b e, x = .decByte b ∧ t.trace = s.trace ++ [.event e] ∧
      (s.dec.st = .readStateByte ∧ eventKind e = 0x01 ∨ s.dec.st = .readErrorByte ∧ eventKind e = 0x02 ∨
        (s.dec.st = .readRpcStrLen ∨ s.dec.st = .readRpcStrData) ∧ eventKind e = 0x04))

/-- R90, R42: an operation of the encoder's side changes nothing of the decoder and does not depend on it, and the other way
round: from a state that agrees on the one agent, it does the same to that agent and puts out the same. -/
def Obligations.AgentsShareNothing : Prop :=
  ∀ (i : Instr) (s t : State), exec i s = .next t →
    (encoderSide i = true → t.dec = s.dec ∧ t.heldBytes = s.heldBytes ∧
      ∀ s' : State, s'.enc = s.enc → ∃ t' out, exec i s' = .next t' ∧ t'.enc = t.enc ∧ t'.dec = s'.dec ∧
        t.trace = s.trace ++ out ∧ t'.trace = s'.trace ++ out) ∧
    (decoderSide i = true → t.enc = s.enc ∧ t.heldRequests = s.heldRequests ∧
      ∀ s' : State, s'.dec = s.dec → ∃ t' out, exec i s' = .next t' ∧ t'.dec = t.dec ∧ t'.enc = s'.enc ∧
        t.trace = s.trace ++ out ∧ t'.trace = s'.trace ++ out)

/-- R42: an encoder input and a decoder input in either order give each agent the same state and the same outputs. -/
def Obligations.AgentInputsCommute : Prop :=
  ∀ (x y : Input) (s t : State), encoderInput x = true → decoderInput y = true → runInputs [x, y] s = .next t →
    ∃ u, runInputs [y, x] s = .next u ∧ u.enc = t.enc ∧ u.dec = t.dec ∧ u.heldBytes = t.heldBytes ∧
      u.heldRequests = t.heldRequests ∧ bytesOf u.trace = bytesOf t.trace ∧ eventsOf u.trace = eventsOf t.trace

/-- No operation touches the host's remaining queue, what was put out stays put out (R80, R141; log 2, log 3), and bytes once
held stay held until `START` or `RESET` gives them back (R150; log 4). -/
def Obligations.OperationsKeepQueueTraceAndHeldBytes : Prop :=
  ∀ (i : Instr) (s t : State), exec i s = .next t →
    t.script = s.script ∧ s.trace <+: t.trace ∧
    (i ≠ .start → i ≠ .reset → s.heldBytes <+: t.heldBytes) ∧
    (i = .start ∨ i = .reset → t.heldBytes = [] ∧ t.heldRequests = s.heldRequests ∧ t.trace = s.trace)

/-- Every step keeps the invariant, from every state that has it, not only from those a run reaches (R16 to R18, R20, R21, R24
to R27, and R111 but for the window after a read failure, log 15). The clause that bytes are held only in `Done` rests on the
model's choice that `START` and `RESET` empty the list of held bytes (log 4). -/
def Obligations.StepKeepsInv : Prop :=
  ∀ (s t : State), Inv s → step s = .next t → Inv t

/-- The state after reset has the invariant. -/
def Obligations.ResetHasInv : Prop := Inv State.reset

/-- From a state with the invariant no step faults, and no step asks for a decoder row that `dec.st` does not select (R65,
R94, R114). -/
def Obligations.InvStepNeverFaults : Prop :=
  ∀ (s : State), Inv s → (∀ f, step s ≠ .fault f) ∧ step s ≠ .refused .decoderRuleNotSelected

/-- R26: the bounds of the decoder's registers in every state that inputs reach from reset. -/
def Obligations.DecoderBoundsInReachableStates : Prop :=
  ∀ (xs : List Input) (t : State), runInputs xs State.reset = .next t →
    t.dec.win.length ≤ 6 ∧ (-255 ≤ t.dec.dlen ∧ t.dec.dlen ≤ 255) ∧
    (t.dec.st = .readRpcStrData → t.dec.cur.length < t.dec.slen.toNat ∧ t.dec.slen.toNat ≤ 255) ∧
    t.dec.fields.length ≤ 255 ∧ (t.dec.fields.map List.length).sum + t.dec.cur.length ≤ 508

/-- R16, R17, R24: under the invariant the two registers the model holds as integers fit their hardware widths, and a body has
at most `MAX_BODY` bytes (log 13). -/
def Obligations.RegistersFitTheirWidths : Prop :=
  ∀ (s : State), Inv s →
    (idxBits s.enc).toNat = s.enc.idx ∧ s.enc.idx ≤ 265 ∧ s.enc.body.length ≤ 264 ∧ (dlenBits s.dec).toInt = s.dec.dlen

/-- R112: for every `P_KEEP` that keeps the header, a byte in `SyncHeader` moves on exactly when it completes the six header
bytes among those consumed since `SyncHeader` was entered. -/
def Obligations.HeaderMatchLaw : Prop :=
  ∀ (keep : Byte → Bool), Config.KeepsHeader keep → ∀ (d : DecRegs) (bs : Bytes) (b : Byte),
    d.st = .syncHeader → d.win = [] → (∀ pre, pre <+: bs → (decRun keep pre d).1.st = .syncHeader) →
    ((decRun keep (bs ++ [b]) d).1.st = .readVersion ↔
      (bs ++ [b]).drop (bs.length + 1 - 6) = [0x49, 0x4D, 0x50, 0x52, 0x4F, 0x56])

/-- R112: the choice of `P_KEEP` changes only the contents of `dec.win`, never a transition or an event. -/
def Obligations.WindowPredicateIsUnobservable : Prop :=
  ∀ (keep keep' : Byte → Bool), Config.KeepsHeader keep → Config.KeepsHeader keep' → ∀ bs : Bytes,
    (decRun keep bs DecRegs.reset).2 = (decRun keep' bs DecRegs.reset).2 ∧
    { (decRun keep bs DecRegs.reset).1 with win := [] } = { (decRun keep' bs DecRegs.reset).1 with win := [] }

/-- R113: noise that leaves a fresh decoder in `SyncHeader` does not change how what follows is decoded, if that begins with
the six header bytes. -/
def Obligations.ResyncLaw : Prop :=
  ∀ (keep : Byte → Bool), Config.KeepsHeader keep → ∀ noise f : Bytes,
    (decRun keep noise DecRegs.reset).1.st = .syncHeader → [0x49, 0x4D, 0x50, 0x52, 0x4F, 0x56] <+: f →
    (decRun keep (noise ++ f) DecRegs.reset).2 = (decRun keep noise DecRegs.reset).2 ++ (decRun keep f DecRegs.reset).2 ∧
    (decRun keep (noise ++ f) DecRegs.reset).1.st = (decRun keep f DecRegs.reset).1.st ∧
    (decRun keep (noise ++ f) DecRegs.reset).1.reason = (decRun keep f DecRegs.reset).1.reason ∧
    (decRun keep (noise ++ f) DecRegs.reset).1.win = (decRun keep f DecRegs.reset).1.win ∧
    (decRun keep (noise ++ f) DecRegs.reset).1.cur = (decRun keep f DecRegs.reset).1.cur ∧
    (decRun keep (noise ++ f) DecRegs.reset).1.fields = (decRun keep f DecRegs.reset).1.fields

/-- R109: a row is shown with one space between its fields, so it has one byte more than its fields for each field after the
first. The function is the host's, beside the block (log 11). -/
def Obligations.ShownRowIsSpaceJoined : Prop :=
  ∀ (fs : List Bytes),
    shownRow fs = (fs.intersperse [0x20]).flatten ∧
    (fs ≠ [] → (shownRow fs).length + 1 = lengthSum fs + fs.length)
end

