-- ==== Sys2Proof/Laws/Operands.lean ====
section
/-! SUPPORT. What the operand forms of Machine/Operands.lean are, once each: lengths, sums and validity (spec 40_encoder.md rules
R70 to R75, R89). -/

namespace Sys2Proof.Machine

@[simp] theorem costSum_nil : costSum [] = 0 := rfl
@[simp] theorem costSum_cons (a : Bytes) (as : List Bytes) : costSum (a :: as) = 1 + a.length + costSum as := by
  simp [costSum]
@[simp] theorem costSum_append (as bs : List Bytes) : costSum (as ++ bs) = costSum as + costSum bs := by
  simp [costSum]

@[simp] theorem lengthSum_nil : lengthSum [] = 0 := rfl
@[simp] theorem lengthSum_cons (a : Bytes) (as : List Bytes) : lengthSum (a :: as) = a.length + lengthSum as := by
  simp [lengthSum]
@[simp] theorem lengthSum_append (as bs : List Bytes) : lengthSum (as ++ bs) = lengthSum as + lengthSum bs := by
  simp [lengthSum]

/-- A byte costs itself, a string one more (R56). -/
theorem costSum_eq_lengthSum (as : List Bytes) : costSum as = lengthSum as + as.length := by
  induction as with
  | nil => rfl
  | cons a as ih => simp [ih]; omega

/-- No string costs more than all of them together. -/
theorem length_lt_costSum {a : Bytes} {as : List Bytes} (h : a ∈ as) : a.length < costSum as := by
  induction as with
  | nil => cases h
  | cons x xs ih =>
    rcases List.mem_cons.mp h with rfl | h
    · simp; omega
    · have := ih h; simp; omega

/-- R70: condition (a) never decides alone. -/
theorem invalidArgs_iff (args : List Bytes) : invalidArgs args = true ↔ 253 < costSum args := by
  have hm : Config.maxLen = 255 := rfl
  simp only [invalidArgs, Bool.or_eq_true, List.any_eq_true, decide_eq_true_eq, hm]
  constructor
  · rintro (⟨a, ha, h⟩ | h)
    · have := length_lt_costSum ha; omega
    · omega
  · intro h; exact .inr (by omega)

/-- R70, the other way round. -/
theorem validArgs_iff (args : List Bytes) : invalidArgs args = false ↔ costSum args ≤ 253 := by
  rw [← Bool.not_eq_true, invalidArgs_iff]; omega

@[simp] theorem recordBytes_nil : recordBytes [] = [] := rfl
@[simp] theorem recordBytes_cons (a : Bytes) (as : List Bytes) :
    recordBytes (a :: as) = BitVec.ofNat 8 a.length :: (a ++ recordBytes as) := rfl

@[simp] theorem recordBytes_length (args : List Bytes) : (recordBytes args).length = costSum args := by
  induction args with
  | nil => rfl
  | cons a as ih => simp [ih]; omega

@[simp] theorem rpcPayload_length (cmd : Byte) (args : List Bytes) : (rpcPayload cmd args).length = 2 + costSum args := by
  simp [rpcPayload]; omega

@[simp] theorem frameBody_length (t : Byte) (payload : Bytes) : (frameBody t payload).length = 9 + payload.length := by
  simp [frameBody, Config.header]; omega

@[simp] theorem wireFrame_length (t : Byte) (payload : Bytes) (csum term : Byte) :
    (wireFrame t payload csum term).length = 11 + payload.length := by
  simp [wireFrame]; omega

@[simp] theorem requestBody_length (cmd : Byte) (args : List Bytes) : (requestBody cmd args).length = 11 + costSum args := by
  simp [requestBody]; omega

@[simp] theorem sumNat_nil : sumNat [] = 0 := rfl
@[simp] theorem sumNat_cons (b : Byte) (x : Bytes) : sumNat (b :: x) = b.toNat + sumNat x := by simp [sumNat]
@[simp] theorem sumNat_append (x y : Bytes) : sumNat (x ++ y) = sumNat x + sumNat y := by simp [sumNat]

@[simp] theorem byteSum_nil : byteSum [] = 0 := rfl

/-- One more byte adds to the accumulator modulo 256 (R18, R78). -/
theorem byteSum_concat (x : Bytes) (b : Byte) : byteSum (x ++ [b]) = byteSum x + b := by
  apply BitVec.eq_of_toNat_eq
  simp [byteSum, BitVec.toNat_add]

/-- The code of a state reads back (R20). -/
theorem stOfCode_stCode (st : DecSt) : stOfCode (stCode st) = st := by
  cases st with
  | unused k => revert k; decide
  | _ => rfl

/-- A 4-bit code writes back (R20). -/
theorem stCode_stOfCode (c : BitVec 4) : stCode (stOfCode c) = c := by revert c; decide

end Sys2Proof.Machine
end

