-- ==== Sys2Proof/Laws/Decode.lean ====
section
/-! SUPPORT. How the readers of Decode.lean step through marked bytes, one lemma per mark, and what they read back. -/

namespace Sys2Proof

@[simp] theorem readMarked_nil : readMarked [] = none := rfl

@[simp] theorem readMarked_end (r : Bytes) : readMarked (markEnd :: r) = some ([], [], r) := by
  rw [readMarked.eq_def]; simp

@[simp] theorem readMarked_string (r : Bytes) :
    readMarked (markString :: r) = (readMarked r).map (fun (h, t, q) => ([], h :: t, q)) := by
  rw [readMarked.eq_def]; simp [markString, markEnd]

@[simp] theorem readMarked_byte (b : Byte) (q : Bytes) :
    readMarked (markByte :: b :: q) = (readMarked q).map (fun (h, t, q) => (b :: h, t, q)) := by
  rw [readMarked.eq_def]; simp [markByte, markString, markEnd]

/-- Marked bytes in front of marked bytes go in front of what they say. -/
theorem readMarked_markBytes (bs : Bytes) {r h : Bytes} {t : List Bytes} {q : Bytes} (hr : readMarked r = some (h, t, q)) :
    readMarked (markBytes bs ++ r) = some (bs ++ h, t, q) := by
  induction bs with
  | nil => simpa [markBytes] using hr
  | cons b bs ih =>
    have e : markBytes (b :: bs) ++ r = markByte :: b :: (markBytes bs ++ r) := by simp [markBytes]
    rw [e, readMarked_byte, ih]; rfl

theorem readMarked_encodeStrings (as : List Bytes) (r : Bytes) :
    readMarked (encodeStrings as ++ r) = some ([], as, r) := by
  induction as with
  | nil => exact readMarked_end r
  | cons a as ih =>
    have e : encodeStrings (a :: as) ++ r = markString :: (markBytes a ++ (encodeStrings as ++ r)) := by
      simp [encodeStrings]
    rw [e, readMarked_string, readMarked_markBytes a ih]; simp

@[simp] theorem readStrings_encodeStrings (as : List Bytes) (r : Bytes) : readStrings (encodeStrings as ++ r) = some (as, r) := by
  simp [readStrings, readMarked_encodeStrings]

@[simp] theorem readBytes_encodeBytes (bs r : Bytes) : readBytes (encodeBytes bs ++ r) = some (bs, r) := by
  have h := readMarked_markBytes bs (readMarked_end r)
  simp only [List.append_nil] at h
  simp [readBytes, encodeBytes, h]

@[simp] theorem readCount_end (r : Bytes) : readCount (markEnd :: r) = some (0, r) := by simp [readCount]

@[simp] theorem readCount_more (r : Bytes) : readCount (markByte :: r) = (readCount r).map (fun (n, q) => (n + 1, q)) := by
  simp [readCount, markByte, markEnd]

@[simp] theorem readCount_encodeCount (n : Nat) (r : Bytes) : readCount (encodeCount n ++ r) = some (n, r) := by
  induction n with
  | zero => exact readCount_end r
  | succ n ih =>
    have e : encodeCount (n + 1) ++ r = markByte :: (encodeCount n ++ r) := by simp [encodeCount, List.replicate_succ]
    rw [e, readCount_more, ih]; rfl

/-- The code byte of a decoder state reads back as the state (R20). -/
theorem stOfCode_stByte (st : DecSt) : Machine.stOfCode (BitVec.ofNat 4 (stByte st).toNat) = st := by
  cases st with
  | unused k => revert k; decide
  | _ => rfl

theorem stByte_lt (st : DecSt) : (stByte st).toNat < 16 := by
  cases st with
  | unused k => revert k; decide
  | _ => decide

end Sys2Proof
end

