-- ==== Sys2Proof/Laws/State.lean ====
section
/-! SUPPORT. One lemma per field per update: what the shared updates of Machine/Ops.lean leave in each field of the state and
of the decoder's registers. -/

namespace Sys2Proof.Machine

/-! ### `landDec` -/

@[simp] theorem landDec_enc (r : DecRegs × Option Event) (s : State) : (landDec r s).enc = s.enc := rfl
@[simp] theorem landDec_dec (r : DecRegs × Option Event) (s : State) : (landDec r s).dec = r.1 := rfl
@[simp] theorem landDec_trace (r : DecRegs × Option Event) (s : State) :
    (landDec r s).trace = s.trace ++ (r.2.map Output.event).toList := rfl
@[simp] theorem landDec_heldBytes (r : DecRegs × Option Event) (s : State) : (landDec r s).heldBytes = s.heldBytes := rfl
@[simp] theorem landDec_heldRequests (r : DecRegs × Option Event) (s : State) :
    (landDec r s).heldRequests = s.heldRequests := rfl
@[simp] theorem landDec_script (r : DecRegs × Option Event) (s : State) : (landDec r s).script = s.script := rfl

/-! ### `holdByte` -/

@[simp] theorem holdByte_enc (b : Byte) (s : State) : (holdByte b s).enc = s.enc := rfl
@[simp] theorem holdByte_dec (b : Byte) (s : State) : (holdByte b s).dec = s.dec := rfl
@[simp] theorem holdByte_trace (b : Byte) (s : State) : (holdByte b s).trace = s.trace := rfl
@[simp] theorem holdByte_heldBytes (b : Byte) (s : State) : (holdByte b s).heldBytes = s.heldBytes ++ [b] := rfl
@[simp] theorem holdByte_heldRequests (b : Byte) (s : State) : (holdByte b s).heldRequests = s.heldRequests := rfl
@[simp] theorem holdByte_script (b : Byte) (s : State) : (holdByte b s).script = s.script := rfl

/-! ### `startRun` -/

@[simp] theorem startRun_enc (s : State) : (startRun s).enc = s.enc := rfl
@[simp] theorem startRun_dec (s : State) : (startRun s).dec = DecRegs.reset := rfl
@[simp] theorem startRun_trace (s : State) : (startRun s).trace = s.trace := rfl
@[simp] theorem startRun_heldBytes (s : State) : (startRun s).heldBytes = [] := rfl
@[simp] theorem startRun_heldRequests (s : State) : (startRun s).heldRequests = s.heldRequests := rfl
@[simp] theorem startRun_script (s : State) : (startRun s).script = s.script := rfl

/-! ### `resetBlock` -/

@[simp] theorem resetBlock_enc (s : State) : (resetBlock s).enc = EncRegs.reset := rfl
@[simp] theorem resetBlock_dec (s : State) : (resetBlock s).dec = DecRegs.reset := rfl
@[simp] theorem resetBlock_trace (s : State) : (resetBlock s).trace = s.trace := rfl
@[simp] theorem resetBlock_heldBytes (s : State) : (resetBlock s).heldBytes = [] := rfl
@[simp] theorem resetBlock_heldRequests (s : State) : (resetBlock s).heldRequests = s.heldRequests := rfl
@[simp] theorem resetBlock_script (s : State) : (resetBlock s).script = s.script := rfl

/-! ### `terminate` -/

@[simp] theorem terminate_st (r : Reason) (d : DecRegs) : (terminate r d).st = .done := rfl
@[simp] theorem terminate_reason (r : Reason) (d : DecRegs) : (terminate r d).reason = r := rfl
@[simp] theorem terminate_win (r : Reason) (d : DecRegs) : (terminate r d).win = d.win := rfl
@[simp] theorem terminate_ptype (r : Reason) (d : DecRegs) : (terminate r d).ptype = d.ptype := rfl
@[simp] theorem terminate_flen (r : Reason) (d : DecRegs) : (terminate r d).flen = d.flen := rfl
@[simp] theorem terminate_rcmd (r : Reason) (d : DecRegs) : (terminate r d).rcmd = d.rcmd := rfl
@[simp] theorem terminate_dlen (r : Reason) (d : DecRegs) : (terminate r d).dlen = d.dlen := rfl
@[simp] theorem terminate_slen (r : Reason) (d : DecRegs) : (terminate r d).slen = d.slen := rfl
@[simp] theorem terminate_cur (r : Reason) (d : DecRegs) : (terminate r d).cur = d.cur := rfl
@[simp] theorem terminate_fields (r : Reason) (d : DecRegs) : (terminate r d).fields = d.fields := rfl

/-! ### `encAbandon` and the reset values -/

@[simp] theorem encAbandon_st (e : EncRegs) : (encAbandon e).st = .idle := rfl
@[simp] theorem encAbandon_body (e : EncRegs) : (encAbandon e).body = e.body := rfl
@[simp] theorem encAbandon_idx (e : EncRegs) : (encAbandon e).idx = 0 := rfl
@[simp] theorem encAbandon_csum (e : EncRegs) : (encAbandon e).csum = e.csum := rfl
@[simp] theorem encAbandon_status (e : EncRegs) : (encAbandon e).status = .transportFailure := rfl

@[simp] theorem encReset_st : EncRegs.reset.st = .idle := rfl
@[simp] theorem encReset_body : EncRegs.reset.body = [] := rfl
@[simp] theorem encReset_idx : EncRegs.reset.idx = 0 := rfl
@[simp] theorem decReset_st : DecRegs.reset.st = .syncHeader := rfl
@[simp] theorem decReset_win : DecRegs.reset.win = [] := rfl
@[simp] theorem decReset_cur : DecRegs.reset.cur = [] := rfl
@[simp] theorem decReset_fields : DecRegs.reset.fields = [] := rfl
@[simp] theorem decReset_dlen : DecRegs.reset.dlen = 0 := rfl
@[simp] theorem decReset_reason : DecRegs.reset.reason = .none := rfl

end Sys2Proof.Machine
end

