-- ==== Sys2Proof/Laws/Ops.lean ====
section
/-! SUPPORT. What each shared operation of Machine/Ops.lean can do, once: the provers cite these and do not unfold the
operations. -/

namespace Sys2Proof.Machine

/-! ### Sequencing -/

@[simp] theorem andThen_next (s : State) (f : State → Result) : andThen (.next s) f = f s := rfl
@[simp] theorem andThen_fault (e : Fault) (f : State → Result) : andThen (.fault e) f = .fault e := rfl
@[simp] theorem andThen_refused (e : Refusal) (f : State → Result) : andThen (.refused e) f = .refused e := rfl

/-- A next state of a sequence has a next state in the middle. -/
theorem andThen_eq_next {r : Result} {f : State → Result} {t : State} :
    andThen r f = .next t ↔ ∃ u, r = .next u ∧ f u = .next t := by
  cases r <;> simp [andThen]

theorem andThen_assoc (r : Result) (f g : State → Result) :
    andThen (andThen r f) g = andThen r (fun s => andThen (f s) g) := by
  cases r <;> rfl

@[simp] theorem runInputs_nil (s : State) : runInputs [] s = .next s := rfl
@[simp] theorem runInputs_cons (x : Input) (xs : List Input) (s : State) :
    runInputs (x :: xs) s = andThen (applyInput x s) (runInputs xs) := rfl

theorem runInputs_append (xs ys : List Input) (s : State) :
    runInputs (xs ++ ys) s = andThen (runInputs xs s) (runInputs ys) := by
  induction xs generalizing s with
  | nil => rfl
  | cons x xs ih => simp only [List.cons_append, runInputs_cons, andThen_assoc]; congr 1; funext u; exact ih u

@[simp] theorem offerBytes_nil (s : State) : offerBytes [] s = .next s := rfl
@[simp] theorem offerBytes_cons (b : Byte) (bs : Bytes) (s : State) :
    offerBytes (b :: bs) s = andThen (offerByte b s) (offerBytes bs) := rfl

theorem offerBytes_append (xs ys : Bytes) (s : State) :
    offerBytes (xs ++ ys) s = andThen (offerBytes xs s) (offerBytes ys) := by
  simp only [offerBytes, List.map_append, runInputs_append]; rfl

/-! ### The encoder's inputs -/

theorem offerRequest_idle {s : State} (h : s.enc.st = .idle) (cmd : Byte) (args : List Bytes) :
    offerRequest cmd args s =
      { s with enc := encRequest cmd args s.enc, heldRequests := s.heldRequests.erase (cmd, args) } := by
  simp [offerRequest, h]

theorem offerRequest_emit {s : State} (h : s.enc.st = .emit) (cmd : Byte) (args : List Bytes) :
    offerRequest cmd args s = { s with heldRequests := s.heldRequests ++ [(cmd, args)] } := by
  simp [offerRequest, h]

theorem encRequest_valid {args : List Bytes} (h : invalidArgs args = false) (cmd : Byte) (e : EncRegs) :
    encRequest cmd args e = { st := .emit, body := requestBody cmd args, idx := 0, csum := 0, status := .none } := by
  simp [encRequest, h]

theorem encRequest_invalid {args : List Bytes} (h : invalidArgs args = true) (cmd : Byte) (e : EncRegs) :
    encRequest cmd args e = { e with status := .encodingError } := by
  simp [encRequest, h]

theorem offerTake_idle {s : State} (h : s.enc.st = .idle) : offerTake s = s := by simp [offerTake, h]

theorem offerTake_emit {s : State} (h : s.enc.st = .emit) :
    offerTake s = { s with enc := encAdvance s.enc, trace := s.trace ++ [.byte (encPresented s.enc)] } := by
  simp [offerTake, h]

theorem offerEncFail_idle {s : State} (h : s.enc.st = .idle) : offerEncFail s = s := by simp [offerEncFail, h]

theorem offerEncFail_emit {s : State} (h : s.enc.st = .emit) : offerEncFail s = { s with enc := encAbandon s.enc } := by
  simp [offerEncFail, h]

/-- Several takes never stop; they are the take over and over. -/
theorem runInputs_takes (n : Nat) (s : State) : runInputs (List.replicate n .encTake) s = .next (offerTake^[n] s) := by
  induction n generalizing s with
  | zero => rfl
  | succ n ih => simp [List.replicate_succ, applyInput, ih]

/-! ### The decoder's inputs -/

theorem offerByte_done {s : State} (h : s.dec.st = .done) (b : Byte) : offerByte b s = .next (holdByte b s) := by
  simp [offerByte, h]

theorem offerByte_unused {s : State} {k : Fin 5} (h : s.dec.st = .unused k) (b : Byte) :
    offerByte b s = .fault .unusedDecoderState := by
  simp [offerByte, h]

theorem offerByte_running {s : State} (h : assignedSt s.dec.st = true) (hd : s.dec.st ≠ .done) (b : Byte) :
    offerByte b s = .next (landDec (decByteWith Config.pKeep b s.dec) s) := by
  unfold offerByte
  cases hs : s.dec.st <;> simp_all [assignedSt]

theorem offerDecFail_done {s : State} (h : s.dec.st = .done) : offerDecFail s = s := by simp [offerDecFail, h]

theorem offerDecFail_running {s : State} (h : s.dec.st ≠ .done) :
    offerDecFail s = { s with dec := terminate .transportFailure { s.dec with cur := [], fields := [] } } := by
  unfold offerDecFail
  cases hs : s.dec.st <;> simp_all

theorem whenSelected_here {st : DecSt} {s : State} (h : s.dec.st = st) (r : Result) : whenSelected st s r = r := by
  simp [whenSelected, h]

theorem whenSelected_elsewhere {st : DecSt} {s : State} (h : s.dec.st ≠ st) (r : Result) :
    whenSelected st s r = .refused .decoderRuleNotSelected := by
  simp [whenSelected, h]

/-! ### Decoder runs -/

@[simp] theorem decRun_nil (keep : Byte → Bool) (d : DecRegs) : decRun keep [] d = (d, []) := rfl
@[simp] theorem decRun_cons (keep : Byte → Bool) (b : Byte) (bs : Bytes) (d : DecRegs) :
    decRun keep (b :: bs) d =
      ((decRun keep bs (decByteWith keep b d).1).1,
        (decByteWith keep b d).2.toList ++ (decRun keep bs (decByteWith keep b d).1).2) := rfl

theorem decRun_append (keep : Byte → Bool) (xs ys : Bytes) (d : DecRegs) :
    decRun keep (xs ++ ys) d =
      ((decRun keep ys (decRun keep xs d).1).1, (decRun keep xs d).2 ++ (decRun keep ys (decRun keep xs d).1).2) := by
  induction xs generalizing d with
  | nil => simp
  | cons x xs ih => simp [ih]

theorem decByteWith_done {d : DecRegs} (h : d.st = .done) (keep : Byte → Bool) (b : Byte) :
    decByteWith keep b d = (d, none) := by
  simp [decByteWith, h]

theorem decRun_done {d : DecRegs} (h : d.st = .done) (keep : Byte → Bool) (bs : Bytes) : decRun keep bs d = (d, []) := by
  induction bs with
  | nil => rfl
  | cons b bs ih => simp [decByteWith_done h, ih]

/-- What `finish_record` can do (R105). -/
theorem finishRecord_cases (d : DecRegs) :
    (0 < d.dlen ∧ finishRecord d = ({ d with fields := d.fields ++ [d.cur], cur := [], st := .readRpcStrLen }, none)) ∨
    (d.dlen ≤ 0 ∧ d.rcmd = Config.cmdScanWifi ∧
      finishRecord d = ({ d with fields := [], cur := [], st := .syncHeader },
        some (.rpcResult d.rcmd (d.fields ++ [d.cur])))) ∨
    (d.dlen ≤ 0 ∧ d.rcmd ≠ Config.cmdScanWifi ∧
      finishRecord d = ({ d with fields := d.fields ++ [d.cur], cur := [], st := .done, reason := .rpcDone },
        some (.rpcResult d.rcmd (d.fields ++ [d.cur])))) := by
  by_cases h : d.dlen ≤ 0
  · by_cases hc : d.rcmd = Config.cmdScanWifi
    · exact .inr (.inl ⟨h, hc, by simp [finishRecord, rowComplete, h, hc]⟩)
    · exact .inr (.inr ⟨h, hc, by simp [finishRecord, rowComplete, h, hc, terminate]⟩)
  · exact .inl ⟨by omega, by simp [finishRecord, rowComplete, h]⟩

/-- A rule never leads to an unused code (R20). -/
theorem decByteWith_assigned {d : DecRegs} (h : assignedSt d.st = true) (keep : Byte → Bool) (b : Byte) :
    assignedSt (decByteWith keep b d).1.st = true := by
  have fin : ∀ d : DecRegs, assignedSt (finishRecord d).1.st = true := by
    intro d
    rcases finishRecord_cases d with ⟨_, h⟩ | ⟨_, _, h⟩ | ⟨_, _, h⟩ <;> simp [h, assignedSt]
  unfold decByteWith
  split <;> rename_i hs
  · unfold ruleSyncHeader; split <;> simp [assignedSt, hs]
  · unfold ruleReadVersion; split <;> simp [assignedSt]
  · simp [ruleReadType, assignedSt]
  · unfold ruleReadLength; dsimp only; split_ifs <;> simp [assignedSt]
  · unfold ruleReadStateByte; split <;> simp [assignedSt]
  · simp [ruleReadErrorByte, assignedSt]
  · simp [ruleReadRpcResponseCmd, assignedSt]
  · unfold ruleReadRpcDataLen; dsimp only; split <;> simp [assignedSt]
  · unfold ruleReadRpcStrLen; dsimp only; split
    · exact fin _
    · simp [assignedSt]
  · unfold ruleReadRpcStrData; dsimp only; split
    · exact fin _
    · simp [assignedSt, hs]
  · exact h
  · exact h

/-- `finish_record` leaves the window alone (R21, R105). -/
@[simp] theorem finishRecord_win (d : DecRegs) : (finishRecord d).1.win = d.win := by
  rcases finishRecord_cases d with ⟨_, h⟩ | ⟨_, _, h⟩ | ⟨_, _, h⟩ <;> simp [h]

/-- Outside `SyncHeader` a byte leaves the window alone (R21), so a window empty there is empty on the return (R111). -/
theorem decByteWith_win {d : DecRegs} (h : d.st ≠ .syncHeader) (keep : Byte → Bool) (b : Byte) :
    (decByteWith keep b d).1.win = d.win := by
  unfold decByteWith
  split
  · contradiction
  · unfold ruleReadVersion; split <;> rfl
  · rfl
  · unfold ruleReadLength; dsimp only; split_ifs <;> rfl
  · unfold ruleReadStateByte; split <;> rfl
  · rfl
  · rfl
  · unfold ruleReadRpcDataLen; dsimp only; split <;> rfl
  · unfold ruleReadRpcStrLen; dsimp only; split <;> simp
  · unfold ruleReadRpcStrData; dsimp only; split <;> simp
  · rfl
  · rfl

/-- A byte in `SyncHeader` that leaves it empties the window (R95, R111). -/
theorem ruleSyncHeader_win_of_leaves {d : DecRegs} (h : d.st = .syncHeader) {keep : Byte → Bool} {b : Byte}
    (hl : (ruleSyncHeader keep b d).1.st ≠ .syncHeader) : (ruleSyncHeader keep b d).1.win = [] := by
  unfold ruleSyncHeader at *
  split at hl <;> simp_all

/-- R111 over one input: the window stays empty outside `SyncHeader` and is empty on every entry to it. The one input left out is
`dec_fail` in `SyncHeader`, where R21, R106 and R130 keep the window (log 15). -/
theorem applyInput_window {x : Input} {s t : State} (h : applyInput x s = .next t)
    (hx : x = .decFail → s.dec.st ≠ .syncHeader) (hw : s.dec.st ≠ .syncHeader → s.dec.win = [])
    (hst : s.dec.st ≠ .syncHeader ∨ t.dec.st ≠ .syncHeader) : t.dec.win = [] := by
  cases x with
  | encReq cmd args => cases h; unfold offerRequest at *; split at hst <;> simp_all
  | encTake => cases h; unfold offerTake at *; split at hst <;> simp_all
  | encFail => cases h; unfold offerEncFail at *; split at hst <;> simp_all
  | decStart => cases h; rfl
  | reset => cases h; rfl
  | decFail => cases h; unfold offerDecFail; split <;> simp_all
  | decByte b =>
    by_cases hs : s.dec.st = .syncHeader
    · rw [show applyInput (.decByte b) s = offerByte b s from rfl,
        offerByte_running (by simp [hs, assignedSt]) (by simp [hs])] at h
      cases h
      simp only [landDec_dec, decByteWith, hs, ne_eq, not_true_eq_false, false_or] at hst ⊢
      exact ruleSyncHeader_win_of_leaves hs hst
    · simp only [applyInput, offerByte] at h
      split at h <;> cases h <;> simp [decByteWith_win hs, hw hs]

/-- The window is always a suffix of the old one with the new byte (R95, R111). -/
theorem slideWindow_suffix (keep : Byte → Bool) (b : Byte) (win : Bytes) : slideWindow keep b win <:+ win ++ [b] := by
  unfold slideWindow lastN
  split
  · exact List.drop_suffix _ _
  · exact List.nil_suffix

/-- The window never holds more than six bytes (R21). -/
theorem slideWindow_length (keep : Byte → Bool) (b : Byte) (win : Bytes) : (slideWindow keep b win).length ≤ 6 := by
  unfold slideWindow lastN Config.windowLen
  split
  · rw [List.length_drop]; omega
  · simp

end Sys2Proof.Machine
end

