-- ==== Sys2Proof/Laws/PerInstr.lean ====
section
/-! SUPPORT. Statements about every instruction as syntax, one lemma per constructor. -/

namespace Sys2Proof.Laws.Lead

open Sys2Proof

/-- The encoding of an instruction begins with the lead byte of its position in the table (30_encoding.md rules R48 and R65; the
lead bytes other than the header's are the model's, log 2). -/
def Statement (i : Instr) : Prop := ∃ rest, encode i = leadOf i :: rest

theorem currentState (payload : Bytes) (csum term : Byte) : Statement (.currentState payload csum term) := ⟨_, rfl⟩
theorem errorState (payload : Bytes) (csum term : Byte) : Statement (.errorState payload csum term) := ⟨_, rfl⟩
theorem rpcCommand (form : RpcCommandForm) : Statement (.rpcCommand form) := by cases form <;> exact ⟨_, rfl⟩
theorem rpcResult (payload : Bytes) (csum term : Byte) : Statement (.rpcResult payload csum term) := ⟨_, rfl⟩
theorem unknownPacketType (ptype : Byte) (payload : Bytes) (csum term : Byte) : Statement (.unknownPacketType ptype payload csum term) := ⟨_, rfl⟩
theorem wifiSettings (form : WifiForm) : Statement (.wifiSettings form) := by cases form <;> exact ⟨_, rfl⟩
theorem currentStateCmd (form : PlainForm) : Statement (.currentStateCmd form) := by cases form <;> exact ⟨_, rfl⟩
theorem deviceInfo (form : PlainForm) : Statement (.deviceInfo form) := by cases form <;> exact ⟨_, rfl⟩
theorem scanWifi (form : PlainForm) : Statement (.scanWifi form) := by cases form <;> exact ⟨_, rfl⟩
theorem unassignedCommandId (cmd : Byte) (form : AnyCommandForm) : Statement (.unassignedCommandId cmd form) := by cases form <;> exact ⟨_, rfl⟩
theorem decByteSyncHeader (b : Byte) : Statement (.decByteSyncHeader b) := ⟨_, rfl⟩
theorem decByteReadVersion (b : Byte) : Statement (.decByteReadVersion b) := ⟨_, rfl⟩
theorem decByteReadType (b : Byte) : Statement (.decByteReadType b) := ⟨_, rfl⟩
theorem decByteReadLength (b : Byte) : Statement (.decByteReadLength b) := ⟨_, rfl⟩
theorem decByteReadStateByte (b : Byte) : Statement (.decByteReadStateByte b) := ⟨_, rfl⟩
theorem decByteReadErrorByte (b : Byte) : Statement (.decByteReadErrorByte b) := ⟨_, rfl⟩
theorem decByteReadRpcResponseCmd (b : Byte) : Statement (.decByteReadRpcResponseCmd b) := ⟨_, rfl⟩
theorem decByteReadRpcDataLen (b : Byte) : Statement (.decByteReadRpcDataLen b) := ⟨_, rfl⟩
theorem decByteReadRpcStrLen (b : Byte) : Statement (.decByteReadRpcStrLen b) := ⟨_, rfl⟩
theorem decByteReadRpcStrData (b : Byte) : Statement (.decByteReadRpcStrData b) := ⟨_, rfl⟩
theorem decByteDone (b : Byte) : Statement (.decByteDone b) := ⟨_, rfl⟩
theorem decStateUnused (k : Fin 5) (b : Byte) : Statement (.decStateUnused k b) := ⟨_, rfl⟩
theorem enc (cmd : Byte) (args : List Bytes) : Statement (.enc cmd args) := ⟨_, rfl⟩
theorem take (n : Nat) : Statement (.take n) := ⟨_, rfl⟩
theorem drain : Statement .drain := ⟨_, rfl⟩
theorem encFail : Statement .encFail := ⟨_, rfl⟩
theorem start : Statement .start := ⟨_, rfl⟩
theorem feed (bs : Bytes) : Statement (.feed bs) := ⟨_, rfl⟩
theorem decFail : Statement .decFail := ⟨_, rfl⟩
theorem reset : Statement .reset := ⟨_, rfl⟩
theorem wifi (ssid password : Bytes) : Statement (.wifi ssid password) := ⟨_, rfl⟩
theorem getState : Statement .getState := ⟨_, rfl⟩
theorem info : Statement .info := ⟨_, rfl⟩
theorem scan : Statement .scan := ⟨_, rfl⟩

end Sys2Proof.Laws.Lead
end

