-- ==== Sys2Proof/Tests/Slice0.lean ====
section
/-! SUPPORT. The package's own tests: words written out from the spec's encodings, ill-formed terms that the check refuses,
vectors of spec 95_test_vectors.md, and for every statement with hypotheses a state and operands that meet them. -/

namespace Sys2Proof.Tests

open Sys2Proof Sys2Proof.Machine

/-! ### Helpers -/

/-- The check holds of the next state. -/
def onNext (r : Result) (p : State → Bool) : Bool :=
  match r with
  | .next t => p t
  | .fault _ => false
  | .refused _ => false

/-- The machine after reset with the decoder's registers `d`. -/
def withDec (d : DecRegs) : State := { State.reset with dec := d }

/-- The machine after reset with the decoder in state `st`, having run into it. -/
def inDec (st : DecSt) : State := withDec { DecRegs.reset with st := st }

/-- The machine with the `GETSTATE` frame accepted and nothing taken yet (spec 95 section 2.2, step 0). -/
def emitting : State := offerRequest 0x02 [] State.reset

/-- The machine in `Done` after an error frame. -/
def doneState : State := withDec { DecRegs.reset with st := .done, reason := .errorState }

/-! ### WellFormed: one ill-formed term for each check, refused -/

theorem test_illformed_payload_too_long : wellFormed (.currentState (List.replicate 256 0) 0 0) = false := by decide +kernel
theorem test_illformed_known_type_as_unknown : wellFormed (.unknownPacketType 0x03 [] 0 0) = false := by decide
theorem test_illformed_assigned_id_as_unassigned : wellFormed (.unassignedCommandId 0x04 (.request [])) = false := by decide
theorem test_illformed_records_too_long : wellFormed (.scanWifi (.response [List.replicate 253 0])) = false := by
  decide +kernel
theorem test_wellformed_wifi : wellFormed (.wifi [0x61] []) = true := by decide

/-! ### Decoding, bit by bit from the spec's encodings (R48, R51, R61, R20; the marks of log 2) -/

theorem test_decode_current_state :
    decode [0x49, 0x4D, 0x50, 0x52, 0x4F, 0x56, 0x01, 0x01, 0x01, 0x02, 0xE2, 0x0A] = .ok (.currentState [0x02] 0xE2 0x0A, []) := by decide
theorem test_decode_error_state :
    decode [0x49, 0x4D, 0x50, 0x52, 0x4F, 0x56, 0x01, 0x02, 0x01, 0x03, 0xE4, 0x0A] = .ok (.errorState [0x03] 0xE4 0x0A, []) := by decide
theorem test_decode_rpc_command_received :
    decode [0x49, 0x4D, 0x50, 0x52, 0x4F, 0x56, 0x01, 0x03, 0x02, 0x02, 0x00, 0xE5, 0x0A, 0xFF] = .ok (.rpcCommand (.received [0x02, 0x00] 0xE5 0x0A), [0xFF]) := by decide
theorem test_decode_rpc_command_produced :
    decode [0x05, 0x02, 0x02, 0x01, 0x0A, 0x00] = .ok (.rpcCommand (.produced 0x02 [[0x0A]]), []) := by decide
theorem test_decode_rpc_result :
    decode [0x49, 0x4D, 0x50, 0x52, 0x4F, 0x56, 0x01, 0x04, 0x02, 0x03, 0x00, 0xE7, 0x0A] = .ok (.rpcResult [0x03, 0x00] 0xE7 0x0A, []) := by decide
theorem test_decode_unknown_packet_type :
    decode [0x49, 0x4D, 0x50, 0x52, 0x4F, 0x56, 0x01, 0x07, 0x02, 0x09, 0x09, 0xF9, 0x0A] = .ok (.unknownPacketType 0x07 [0x09, 0x09] 0xF9 0x0A, []) := by decide
theorem test_decode_wifi_settings_request :
    decode [0x01, 0x01, 0x00, 0x02, 0x01, 0x61, 0x02, 0x00] = .ok (.wifiSettings (.request [0x61] []), []) := by decide
theorem test_decode_wifi_settings_response :
    decode [0x01, 0x01, 0x01, 0x02, 0x01, 0x61, 0x00] = .ok (.wifiSettings (.response [[0x61]]), []) := by decide
theorem test_decode_current_state_cmd :
    decode [0x01, 0x02, 0x00, 0x00] = .ok (.currentStateCmd .request, []) := by decide
theorem test_decode_device_info :
    decode [0x01, 0x03, 0x01, 0x02, 0x02, 0x00] = .ok (.deviceInfo (.response [[], []]), []) := by decide
theorem test_decode_scan_wifi :
    decode [0x01, 0x04, 0x00, 0x00] = .ok (.scanWifi .request, []) := by decide
theorem test_decode_unassigned_command_id :
    decode [0x01, 0xFF, 0x00, 0x00] = .ok (.unassignedCommandId 0xFF (.request []), []) := by decide
theorem test_decode_dec_byte_SyncHeader :
    decode [0x02, 0x00, 0x56] = .ok (.decByteSyncHeader 0x56, []) := by decide
theorem test_decode_dec_byte_ReadVersion :
    decode [0x02, 0x01, 0x56] = .ok (.decByteReadVersion 0x56, []) := by decide
theorem test_decode_dec_byte_ReadType :
    decode [0x02, 0x02, 0x56] = .ok (.decByteReadType 0x56, []) := by decide
theorem test_decode_dec_byte_ReadLength :
    decode [0x02, 0x03, 0x56] = .ok (.decByteReadLength 0x56, []) := by decide
theorem test_decode_dec_byte_ReadStateByte :
    decode [0x02, 0x04, 0x56] = .ok (.decByteReadStateByte 0x56, []) := by decide
theorem test_decode_dec_byte_ReadErrorByte :
    decode [0x02, 0x05, 0x56] = .ok (.decByteReadErrorByte 0x56, []) := by decide
theorem test_decode_dec_byte_ReadRpcResponseCmd :
    decode [0x02, 0x06, 0x56] = .ok (.decByteReadRpcResponseCmd 0x56, []) := by decide
theorem test_decode_dec_byte_ReadRpcDataLen :
    decode [0x02, 0x07, 0x56] = .ok (.decByteReadRpcDataLen 0x56, []) := by decide
theorem test_decode_dec_byte_ReadRpcStrLen :
    decode [0x02, 0x08, 0x56] = .ok (.decByteReadRpcStrLen 0x56, []) := by decide
theorem test_decode_dec_byte_ReadRpcStrData :
    decode [0x02, 0x09, 0x56] = .ok (.decByteReadRpcStrData 0x56, []) := by decide
theorem test_decode_dec_byte_Done :
    decode [0x02, 0x0A, 0x56] = .ok (.decByteDone 0x56, []) := by decide
theorem test_decode_dec_state_unused :
    decode [0x02, 0x0F, 0x56] = .ok (.decStateUnused 4 0x56, []) := by decide
theorem test_decode_enc :
    decode [0x03, 0x00, 0xFF, 0x02, 0x01, 0x0A, 0x00] = .ok (.enc 0xFF [[0x0A]], []) := by decide
theorem test_decode_take :
    decode [0x03, 0x01, 0x01, 0x01, 0x00] = .ok (.take 2, []) := by decide
theorem test_decode_drain :
    decode [0x03, 0x02] = .ok (.drain, []) := by decide
theorem test_decode_encfail :
    decode [0x03, 0x03] = .ok (.encFail, []) := by decide
theorem test_decode_start :
    decode [0x03, 0x04] = .ok (.start, []) := by decide
theorem test_decode_feed :
    decode [0x03, 0x05, 0x01, 0x49, 0x01, 0x00, 0x00] = .ok (.feed [0x49, 0x00], []) := by decide
theorem test_decode_decfail :
    decode [0x03, 0x06] = .ok (.decFail, []) := by decide
theorem test_decode_reset :
    decode [0x03, 0x07] = .ok (.reset, []) := by decide
theorem test_decode_wifi :
    decode [0x04, 0x00, 0x02, 0x01, 0x61, 0x02, 0x01, 0x62, 0x00] = .ok (.wifi [0x61] [0x62], []) := by decide
theorem test_decode_getstate :
    decode [0x04, 0x01] = .ok (.getState, []) := by decide
theorem test_decode_info :
    decode [0x04, 0x02] = .ok (.info, []) := by decide
theorem test_decode_scan :
    decode [0x04, 0x03] = .ok (.scan, []) := by decide
theorem test_reject_bad_version : decode [0x49, 0x4D, 0x50, 0x52, 0x4F, 0x56, 0x02, 0x01, 0x00, 0x00, 0x00] = .error .badFrame := by decide
theorem test_reject_short_payload : decode [0x49, 0x4D, 0x50, 0x52, 0x4F, 0x56, 0x01, 0x01, 0x02, 0x00, 0x00, 0x00] = .error .badFrame := by decide
theorem test_reject_unknown_lead : decode [0x07] = .error (.unknownLead 0x07) := by decide
theorem test_reject_state_code_sixteen : decode [0x02, 0x10, 0x00] = .error (.unknownCode 0x10) := by decide
theorem test_reject_scan_with_argument : decode [0x01, 0x04, 0x00, 0x02, 0x00] = .error .badOperand := by decide
theorem test_reject_short_command : decode [0x01, 0x04] = .error .badOperand := by decide
theorem test_reject_empty : decode [] = .error .empty := by decide

/-! ### Table words (log 14) -/

theorem test_table_packet_type : decodeTableWord 16 0x0004 = some (.rpcResult [] 0x00 0x00) := by decide
theorem test_table_decoder_state : decodeTableWord 8 0x0A = some (.decByteDone 0x00) := by decide
theorem test_fetch_packet_type :
    onNext (step (State.reset.withFetchWord 16 0x0004)) (fun t => decide (t.dec.ptype = 0x04 ∧ t.script = [])) = true := by
  decide +kernel
theorem test_fetch_decoder_state :
    step (State.reset.withFetchWord 8 0x0C) = .fault .unusedDecoderState := by rfl

/-! ### Vectors of spec 95_test_vectors.md -/

/-- E2, through the row of the command id. -/
theorem test_E2_wifi_empty : buildCommand 0x01 [[], []] =
    some [0x49, 0x4D, 0x50, 0x52, 0x4F, 0x56, 0x01, 0x03, 0x04, 0x01, 0x02, 0x00, 0x00, 0xE8, 0x0A] := by decide
/-- E8 (D5). -/
theorem test_E8_unassigned_id : buildCommand 0xFF [] =
    some [0x49, 0x4D, 0x50, 0x52, 0x4F, 0x56, 0x01, 0x03, 0x02, 0xFF, 0x00, 0xE2, 0x0A] := by decide
/-- E9: the checksum wraps to 0. -/
theorem test_E9_checksum_zero : (buildCommand 0x01 [[0x20, 0x77], [0x78]]).map (fun f => f.drop 16) = some [0x00, 0x0A] := by
  decide
/-- E17: S = 254. -/
theorem test_E17_rejected : invalidArgs [List.replicate 253 0x41] = true := by decide +kernel
/-- E13: S = 253. -/
theorem test_E13_accepted : invalidArgs [List.replicate 252 0x41] = false := by decide +kernel

/-- Section 2.2, step 4. -/
theorem test_take_four : onNext (exec (.take 4) emitting) (fun t => decide (t.enc.idx = 4 ∧ t.enc.csum = 0x38)) = true := by
  decide
/-- Section 2.2, step 12: the checksum byte leaves the accumulator. -/
theorem test_take_twelve :
    onNext (exec (.take 12) emitting) (fun t => decide (t.enc.st = .emit ∧ t.enc.idx = 12 ∧ t.enc.csum = 0xE5)) = true := by
  decide
/-- Section 2.2, step 13. -/
theorem test_drain_sends :
    onNext (exec .drain emitting) (fun t => decide (t.enc.st = .idle ∧ t.enc.status = .sent ∧
      bytesOf t.trace = [0x49, 0x4D, 0x50, 0x52, 0x4F, 0x56, 0x01, 0x03, 0x02, 0x02, 0x00, 0xE5, 0x0A])) = true := by
  decide
/-- F1. -/
theorem test_encfail_F1 :
    onNext (exec .encFail emitting) (fun t => decide (t.enc.status = .transportFailure ∧ t.enc.idx = 0)) = true := by decide
/-- F7's `enc_take` in `Idle`. -/
theorem test_take_idle_F7 : onNext (exec (.take 1) State.reset) (fun t => decide (t = State.reset)) = true := by decide
/-- R77: a second request waits with the host. -/
theorem test_enc_in_emit :
    onNext (exec .scan emitting) (fun t => decide (t.enc = emitting.enc ∧ t.heldRequests = [(0x04, [])])) = true := by decide

/-- S1. -/
theorem test_S1_match : onNext (exec (.decByteSyncHeader 0x56) (withDec { DecRegs.reset with win := [0x49, 0x4D, 0x50, 0x52, 0x4F] }))
    (fun t => decide (t.dec.st = .readVersion ∧ t.dec.win = [])) = true := by decide
/-- S4: the window keeps the last six. -/
theorem test_S4_slides : onNext (exec (.decByteSyncHeader 0x49)
      (withDec { DecRegs.reset with win := [0x41, 0x42, 0x43, 0x44, 0x45, 0x46] }))
    (fun t => decide (t.dec.st = .syncHeader ∧ t.dec.win = [0x42, 0x43, 0x44, 0x45, 0x46, 0x49])) = true := by decide
/-- S6. -/
theorem test_S6_bad_version :
    onNext (exec (.decByteReadVersion 0x49) (inDec .readVersion)) (fun t => decide (t.dec.st = .syncHeader)) = true := by decide
/-- S7. -/
theorem test_S7_type : onNext (exec (.decByteReadType 0x04) (inDec .readType))
    (fun t => decide (t.dec.st = .readLength ∧ t.dec.ptype = 0x04)) = true := by decide
/-- S8. -/
theorem test_S8_result_length :
    onNext (exec (.decByteReadLength 0x02) (withDec { DecRegs.reset with st := .readLength, ptype := 0x04 }))
      (fun t => decide (t.dec.st = .readRpcResponseCmd ∧ t.dec.flen = 2)) = true := by decide
/-- S12: the zero test comes first. -/
theorem test_S12_zero_length :
    onNext (exec (.decByteReadLength 0x00) (withDec { DecRegs.reset with st := .readLength, ptype := 0x04 }))
      (fun t => decide (t.dec.st = .syncHeader)) = true := by decide
/-- S13. -/
theorem test_S13_stopped : onNext (exec (.decByteReadStateByte 0x00) (inDec .readStateByte))
    (fun t => decide (t.dec.st = .done ∧ t.dec.reason = .stopped ∧ eventsOf t.trace = [.currentState 0x00])) = true := by decide
/-- S15. -/
theorem test_S15_error : onNext (exec (.decByteReadErrorByte 0x01) (inDec .readErrorByte))
    (fun t => decide (t.dec.reason = .errorState ∧ eventsOf t.trace = [.errorState 0x01])) = true := by decide
/-- S16. -/
theorem test_S16_response_cmd : onNext (exec (.decByteReadRpcResponseCmd 0x03) (inDec .readRpcResponseCmd))
    (fun t => decide (t.dec.rcmd = 0x03 ∧ t.dec.st = .readRpcDataLen)) = true := by decide
/-- S18. -/
theorem test_S18_empty : onNext (exec (.decByteReadRpcDataLen 0x00) (inDec .readRpcDataLen))
    (fun t => decide (t.dec.reason = .rpcEmpty ∧ t.trace = [])) = true := by decide
/-- S20. -/
theorem test_S20_empty_record :
    onNext (exec (.decByteReadRpcStrLen 0x00) (withDec { DecRegs.reset with st := .readRpcStrLen, rcmd := 0x03, dlen := 1 }))
      (fun t => decide (t.dec.reason = .rpcDone ∧ t.dec.dlen = 0 ∧ eventsOf t.trace = [.rpcResult 0x03 [[]]])) = true := by decide
/-- S24: a scan row is not terminal. -/
theorem test_S24_scan_row :
    onNext (exec (.decByteReadRpcStrData 0x42)
        (withDec { DecRegs.reset with st := .readRpcStrData, rcmd := 0x04, dlen := 1, slen := 2, cur := [0x41] }))
      (fun t => decide (t.dec.st = .syncHeader ∧ t.dec.fields = [] ∧
        eventsOf t.trace = [.rpcResult 0x04 [[0x41, 0x42]]])) = true := by decide
/-- S25: the record goes on below zero. -/
theorem test_S25_negative :
    onNext (exec (.decByteReadRpcStrData 0x42)
        (withDec { DecRegs.reset with st := .readRpcStrData, dlen := 0, slen := 3, cur := [0x41] }))
      (fun t => decide (t.dec.st = .readRpcStrData ∧ t.dec.dlen = -1)) = true := by decide
/-- DS1: the checksum and terminator are held. -/
theorem test_DS1_state_frame : onNext (exec (.currentState [0x00] 0xE0 0x0A) State.reset)
    (fun t => decide (t.dec.reason = .stopped ∧ t.heldBytes = [0xE0, 0x0A])) = true := by decide
/-- DS9. -/
theorem test_DS9_error_frame : onNext (exec (.errorState [0x03] 0xE4 0x0A) State.reset)
    (fun t => decide (t.dec.reason = .errorState ∧ eventsOf t.trace = [.errorState 0x03])) = true := by decide
/-- DS13: an empty scan result ends the run (C6). -/
theorem test_DS13_empty_scan : onNext (exec (.scanWifi (.response [])) State.reset)
    (fun t => decide (t.dec.reason = .rpcEmpty ∧ t.dec.rcmd = 0x04 ∧ t.heldBytes = [0xE8, 0x0A])) = true := by decide
/-- DS19's first frame (D29). -/
theorem test_DS19_command_at_decoder : onNext (exec (.rpcCommand (.received [0x02, 0x00] 0xE5 0x0A)) State.reset)
    (fun t => decide (t.dec.st = .syncHeader ∧ t.trace = [])) = true := by decide
/-- U17. -/
theorem test_unused_state_faults : exec (.feed [0x00]) (inDec (.unused 2)) = .fault .unusedDecoderState := by rfl
/-- R106. -/
theorem test_decfail_discards :
    onNext (exec .decFail (withDec { DecRegs.reset with st := .readRpcStrData, cur := [0x41], fields := [[0x42]] }))
      (fun t => decide (t.dec.reason = .transportFailure ∧ t.dec.cur = [] ∧ t.dec.fields = [])) = true := by decide
/-- Section 2.6: the two predicates leave different windows. -/
theorem test_window_predicates :
    (decRun Config.pKeep [0x50, 0x01, 0x52] DecRegs.reset).1.win = [0x52] ∧
    (decRun (fun b => decide (b.toNat < 128)) [0x50, 0x01, 0x52] DecRegs.reset).1.win = [0x50, 0x01, 0x52] := by decide
/-- R109's example, "Ratgdo 2.0.0" cut to two short fields. -/
theorem test_shown_row : shownRow [[0x52, 0x61], [0x32]] = [0x52, 0x61, 0x20, 0x32] := by decide
/-- R60: the three labels the source gives. -/
theorem test_labels : labelState 0 = "WiFi stopped" ∧ labelState 2 = "Wifi authorized" ∧ labelError 3 = "Unable to connect" :=
  ⟨rfl, rfl, rfl⟩
/-- R67's expansion, with R68's reading of ASCII text: the Wi-Fi flow's first operation. -/
theorem test_wifi_flow : (requestWifiSettings "My" "" []).head? = some (.wifi [0x4D, 0x79] []) := by decide +kernel

/-! ### Witnesses: the hypotheses of each statement are met together -/

theorem emitting_encInv : EncInv emitting.enc :=
  ⟨.inr ⟨0x02, [], rfl, rfl⟩, (fun h => nomatch h), fun _ => ⟨⟨0x02, [], rfl, rfl⟩, by decide, by decide, rfl⟩⟩

/-- A state that is not reset, with the invariant and a byte for the decoder waiting. -/
def waitingVersion : State := { inDec .readVersion with script := [0x02, 0x01] }

theorem waitingVersion_inv : Inv waitingVersion where
  enc := ⟨.inl rfl, fun _ => rfl, fun h => nomatch h⟩
  dec := ⟨rfl, by decide, by decide, fun _ _ => rfl, by decide, by decide, by decide, by decide, by decide, fun _ => rfl,
    fun _ _ _ => rfl, (fun h => nomatch h), fun h => nomatch h⟩
  held := fun h => absurd rfl h

theorem test_witness_DecodeOfEncode : WellFormed (.rpcResult (List.replicate 255 0) 0 0) := by
  decide +kernel
theorem test_witness_EncodeOfDecode : decode [0x03, 0x02, 0x07] = .ok (.drain, [0x07]) := by decide
theorem test_witness_StepRuns : waitingVersion.script ≠ [] ∧
    decode (fetchBytes waitingVersion) = .ok (.decByteReadVersion 0x01, []) := by decide
theorem test_witness_StepWaits : State.reset.script = [] := rfl
theorem test_witness_Queued : WellFormed (.decByteReadVersion 0x01) ∧
    waitingVersion.script = queueBytes (.decByteReadVersion 0x01) ++ [] ∧
    ∀ st b, Instr.decByteReadVersion 0x01 = decRow st b → waitingVersion.dec.st = st :=
  ⟨by decide, by decide, fun st b h => by cases st <;> simp_all [decRow, waitingVersion, inDec, withDec]⟩
theorem test_witness_RequestInIdle : State.reset.enc.st = .idle := rfl
theorem test_witness_RequestInEmit : emitting.enc.st = .emit := rfl
theorem test_witness_Wifi_bound : State.reset.enc.st = .idle ∧ ¬ 251 < (List.replicate 251 (0x78 : Byte)).length + 0 ∧
    251 < (List.replicate 252 (0x78 : Byte)).length + 0 := by decide +kernel
theorem test_witness_EveryCommandId : State.reset.enc.st = .idle ∧
    (([List.replicate 252 (0x41 : Byte)] : List Bytes).map (fun a => 1 + a.length)).sum ≤ 253 := by
  decide +kernel
theorem test_witness_Take_body : emitting.enc.st = .emit ∧ emitting.enc.body[emitting.enc.idx]? = some 0x49 := by decide
/-- The state of section 2.2 after 11 takes: the checksum is next. -/
def atChecksum : State := offerTake^[11] emitting
theorem test_witness_Take_checksum : atChecksum.enc.st = .emit ∧ atChecksum.enc.body[atChecksum.enc.idx]? = none ∧
    atChecksum.enc.idx = atChecksum.enc.body.length := by decide
theorem test_witness_Take_terminator : (offerTake atChecksum).enc.st = .emit ∧
    (offerTake atChecksum).enc.idx = (offerTake atChecksum).enc.body.length + 1 := by decide
theorem test_witness_TakeMany_Drain : emitting.enc.st = .emit ∧ EncInv emitting.enc := ⟨rfl, emitting_encInv⟩
theorem test_witness_Streaming : State.reset.enc.st = .idle ∧ buildCommand 0x02 [[0x0A]] =
    some [0x49, 0x4D, 0x50, 0x52, 0x4F, 0x56, 0x01, 0x03, 0x04, 0x02, 0x02, 0x01, 0x0A, 0xF4, 0x0A] := by decide
theorem test_witness_Produced_both : State.reset.enc.st = .idle ∧ (buildCommand 0x02 [[0x0A]]).isSome = true ∧
    buildCommand 0x02 [List.replicate 253 0] = none := by
  decide +kernel
theorem test_witness_NotEnabled : State.reset.enc.st = .idle ∧ doneState.dec.st = .done := by decide
theorem test_witness_Frames : (buildCommand 0x07 [[], []]).isSome = true := by decide
theorem test_witness_rules :
    (inDec .syncHeader).dec.st = .syncHeader ∧ (inDec .readVersion).dec.st = .readVersion ∧
    (inDec .readType).dec.st = .readType ∧ (inDec .readLength).dec.st = .readLength ∧
    (inDec .readStateByte).dec.st = .readStateByte ∧ (inDec .readErrorByte).dec.st = .readErrorByte ∧
    (inDec .readRpcResponseCmd).dec.st = .readRpcResponseCmd ∧ (inDec .readRpcDataLen).dec.st = .readRpcDataLen ∧
    (inDec .readRpcStrLen).dec.st = .readRpcStrLen ∧ (inDec .readRpcStrData).dec.st = .readRpcStrData := by decide
theorem test_witness_SyncHeader_clauses :
    (withDec { DecRegs.reset with win := [0x49, 0x4D, 0x50, 0x52, 0x4F] }).dec.st = .syncHeader ∧
    ([0x49, 0x4D, 0x50, 0x52, 0x4F] ++ [0x56] : Bytes).drop (5 + 1 - 6) = [0x49, 0x4D, 0x50, 0x52, 0x4F, 0x56] ∧
    Config.pKeep 0x20 = true ∧ Config.pKeep 0x7E = true ∧ Config.pKeep 0x1F = false ∧ Config.pKeep 0x7F = false := by decide
theorem test_witness_StrLen_clauses : (withDec { DecRegs.reset with st := .readRpcStrLen, dlen := 1 }).dec.st = .readRpcStrLen ∧
    (withDec { DecRegs.reset with st := .readRpcStrLen, dlen := 1 }).dec.dlen - 1 ≤ 0 ∧
    ¬ (withDec { DecRegs.reset with st := .readRpcStrLen, dlen := 2 }).dec.dlen - 1 ≤ 0 := by decide
theorem test_witness_StrData_clauses : (withDec { DecRegs.reset with st := .readRpcStrData, slen := 1 }).dec.st = .readRpcStrData ∧
    (withDec { DecRegs.reset with st := .readRpcStrData, slen := 1 }).dec.cur.length + 1 = (0x01 : Byte).toNat ∧
    ¬ (withDec { DecRegs.reset with st := .readRpcStrData, slen := 2 }).dec.cur.length + 1 = (0x02 : Byte).toNat := by decide
theorem test_witness_Done : doneState.dec.st = .done := rfl
theorem test_witness_Unused : (inDec (.unused 0)).dec.st = .unused 0 ∧ (inDec (.unused 4)).dec.st = .unused 4 := by decide
theorem test_witness_FeedTakes : assignedSt State.reset.dec.st = true ∧ assignedSt doneState.dec.st = true := by decide
theorem test_witness_clean_frames : State.reset.dec.st = .syncHeader ∧ State.reset.dec.win = [] := ⟨rfl, rfl⟩
theorem test_witness_results : State.reset.dec.st = .syncHeader ∧ State.reset.dec.win = [] ∧
    (([List.replicate 252 (0x41 : Byte)] : List Bytes).map (fun r => 1 + r.length)).sum ≤ 253 ∧
    ((([] : List Bytes)).map (fun r => 1 + r.length)).sum ≤ 253 := by decide +kernel
theorem test_witness_discarded : State.reset.dec.st = .syncHeader ∧ State.reset.dec.win = [] ∧
    ([0x09, 0x09] : Bytes).length ≤ 255 ∧ (0x03 : Byte) ≠ 0x01 ∧ (0x03 : Byte) ≠ 0x02 ∧
    (0x03 : Byte) ≠ 0x04 ∧ (0x00 : Byte) ≠ 0x01 := by decide
theorem test_witness_DecFail : (inDec .readRpcStrData).dec.st ≠ .done ∧ State.reset.dec.st ≠ .done := by decide
theorem test_witness_LeaveDone : doneState.dec.st = .done ∧ onNext (exec .start doneState) (fun t => decide (t.dec.st = .syncHeader)) = true ∧
    onNext (exec (.feed [0x49]) doneState) (fun t => decide (t.dec = doneState.dec)) = true := by decide
theorem test_witness_Terminal : onNext (applyInput (.decByte 0x00) (inDec .readStateByte)) (fun t => decide (t.dec.st = .done)) = true ∧
    onNext (applyInput (.decByte 0x07) (inDec .readErrorByte)) (fun t => decide (t.dec.st = .done)) = true ∧
    onNext (applyInput (.decByte 0x00) (inDec .readRpcStrLen)) (fun t => decide (t.dec.st = .done)) = true ∧
    onNext (applyInput (.decByte 0x00) (inDec .readRpcDataLen)) (fun t => decide (t.dec.st = .done)) = true ∧
    onNext (applyInput .decFail (inDec .readType)) (fun t => decide (t.dec.st = .done)) = true := by decide
theorem test_witness_OneOutput : onNext (applyInput .encTake emitting) (fun t => decide (t.trace = [.byte 0x49])) = true ∧
    onNext (applyInput (.decByte 0x02) (inDec .readStateByte)) (fun t => decide (eventsOf t.trace = [.currentState 0x02])) = true := by
  decide
theorem test_witness_ShareNothing : encoderSide .drain = true ∧ decoderSide (.feed [0x49]) = true ∧
    onNext (exec .drain emitting) (fun t => decide (t.dec = emitting.dec)) = true ∧
    onNext (exec (.feed [0x49]) emitting) (fun t => decide (t.enc = emitting.enc)) = true := by decide
theorem test_witness_Commute : encoderInput .encTake = true ∧ decoderInput (.decByte 0x49) = true ∧
    onNext (runInputs [.encTake, .decByte 0x49] emitting) (fun t => decide (t.enc.idx = 1)) = true := by decide
theorem test_witness_KeepQueue : onNext (exec .start waitingVersion) (fun t => decide (t.script = [0x02, 0x01])) = true := by decide
theorem test_witness_StepKeepsInv : Inv waitingVersion ∧
    onNext (step waitingVersion) (fun t => decide (t.dec.st = .readType)) = true := ⟨waitingVersion_inv, by decide⟩
theorem test_witness_Reachable :
    onNext (runInputs [.decStart, .decByte 0x49, .decFail] State.reset) (fun t => decide (t.dec.win = [0x49])) = true := by decide
theorem test_witness_HeaderMatch : Config.KeepsHeader Config.pKeep ∧ State.reset.dec.st = .syncHeader ∧ State.reset.dec.win = [] ∧
    (∀ pre, pre <+: ([] : Bytes) → (decRun Config.pKeep pre State.reset.dec).1.st = .syncHeader) :=
  ⟨by decide, rfl, rfl, fun pre h => by rw [List.prefix_nil.mp h]; rfl⟩
theorem test_witness_HeaderMatch_full :
    (∀ pre, pre <+: ([0x49, 0x4D, 0x50, 0x52, 0x4F] : Bytes) → (decRun Config.pKeep pre State.reset.dec).1.st = .syncHeader) ∧
    (decRun Config.pKeep [0x49, 0x4D, 0x50, 0x52, 0x4F, 0x56] State.reset.dec).1.st = .readVersion := by
  refine ⟨fun pre h => ?_, by decide⟩
  rw [← List.mem_inits] at h
  revert pre; decide
theorem test_witness_KeepPair : Config.KeepsHeader Config.pKeep ∧ Config.KeepsHeader (fun _ => true) := by decide
theorem test_witness_Resync : (decRun Config.pKeep [0x00, 0xFF, 0x49, 0x4D] DecRegs.reset).1.st = .syncHeader ∧
    [0x49, 0x4D, 0x50, 0x52, 0x4F, 0x56] <+: ([0x49, 0x4D, 0x50, 0x52, 0x4F, 0x56, 0x01] : Bytes) := by decide
theorem test_witness_ShownRow : ([[0x52], []] : List Bytes) ≠ [] := by decide

end Sys2Proof.Tests
end

section
/-! PROOFS, family 10_state.md, in three layers. An operation of the host is a list of inputs, so a step keeps what every input
keeps; one input keeps the invariant of the encoder and of the decoder; the statements are settled from these two. -/

namespace Sys2Proof.Machine

/-! ### Every operation is a list of inputs (R66) -/

theorem runInputs_singleton (x : Input) (s : State) : runInputs [x] s = applyInput x s := by
  cases h : applyInput x s <;> simp [h]

/-- What every input keeps, a list of inputs keeps. -/
theorem runInputs_keeps {P : State → Prop} (hP : ∀ x s t, P s → applyInput x s = .next t → P t) {xs : List Input}
    {s t : State} (hs : P s) (h : runInputs xs s = .next t) : P t := by
  induction xs generalizing s with
  | nil => cases h; exact hs
  | cons x xs ih =>
    obtain ⟨u, hu, ht⟩ := andThen_eq_next.mp h
    exact ih (hP x s u hs hu) ht

/-- A decoder-state row offers its byte where `dec.st` selects it, and is refused elsewhere (R65, R94). -/
theorem exec_decRow (st : DecSt) (b : Byte) (s : State) :
    exec (decRow st b) s = whenSelected st s (offerByte b s) := by
  by_cases hs : s.dec.st = st
  · rw [whenSelected_here hs]
    cases st with
    | done => exact (whenSelected_here hs _).trans (offerByte_done hs b).symm
    | unused k => exact (whenSelected_here hs _).trans (offerByte_unused hs b).symm
    | _ => exact (whenSelected_here hs _).trans (by simp [offerByte, decByteWith, hs])
  · rw [whenSelected_elsewhere hs]
    cases st <;> exact whenSelected_elsewhere hs _

/-- A decoder-state row that answers a next state offered its byte. -/
theorem exec_decRow_next {st : DecSt} {b : Byte} {s t : State} (h : exec (decRow st b) s = .next t) :
    s.dec.st = st ∧ applyInput (.decByte b) s = .next t := by
  rw [exec_decRow] at h
  by_cases hs : s.dec.st = st
  · exact ⟨hs, by rwa [whenSelected_here hs] at h⟩
  · rw [whenSelected_elsewhere hs] at h; cases h

/-- An operation that answers a next state has run inputs in order (R9, R66). -/
theorem exec_next_runInputs {i : Instr} {s t : State} (h : exec i s = .next t) : ∃ xs, runInputs xs s = .next t := by
  have one {x : Input} (hx : applyInput x s = .next t) : ∃ xs, runInputs xs s = .next t :=
    ⟨[x], (runInputs_singleton x s).trans hx⟩
  have row (st : DecSt) {b : Byte} (hr : exec (decRow st b) s = .next t) : ∃ xs, runInputs xs s = .next t :=
    one (exec_decRow_next hr).2
  cases i with
  | currentState | errorState | rpcResult | unknownPacketType | take | drain | feed => exact ⟨_, h⟩
  | rpcCommand form =>
    cases form with
    | received payload csum term => exact ⟨_, h⟩
    | produced cmd args =>
      simp only [exec, execRpcCommand] at h
      split at h
      · exact ⟨.encReq cmd args :: List.replicate (takesLeft (offerRequest cmd args s).enc) .encTake, h⟩
      · exact one (x := .encReq cmd args) h
  | wifiSettings form | currentStateCmd form | deviceInfo form | scanWifi form | unassignedCommandId _ form =>
    cases form with
    | request => exact one (x := .encReq _ _) h
    | response => exact ⟨_, h⟩
  | enc | wifi | getState | info | scan => exact one (x := .encReq _ _) h
  | encFail => exact one (x := .encFail) h
  | start => exact one (x := .decStart) h
  | decFail => exact one (x := .decFail) h
  | reset => exact one (x := .reset) h
  | decByteSyncHeader => exact row .syncHeader h
  | decByteReadVersion => exact row .readVersion h
  | decByteReadType => exact row .readType h
  | decByteReadLength => exact row .readLength h
  | decByteReadStateByte => exact row .readStateByte h
  | decByteReadErrorByte => exact row .readErrorByte h
  | decByteReadRpcResponseCmd => exact row .readRpcResponseCmd h
  | decByteReadRpcDataLen => exact row .readRpcDataLen h
  | decByteReadRpcStrLen => exact row .readRpcStrLen h
  | decByteReadRpcStrData => exact row .readRpcStrData h
  | decByteDone => exact row .done h
  | decStateUnused k => exact row (.unused k) h

/-- A step waits, or takes bytes off the host's queue and runs inputs. -/
theorem step_next_runInputs {s t : State} (h : step s = .next t) :
    t = s ∨ ∃ rest xs, runInputs xs { s with script := rest } = .next t := by
  unfold step at h
  split at h
  · cases h; exact .inl rfl
  · split at h
    · obtain ⟨xs, hxs⟩ := exec_next_runInputs h
      exact .inr ⟨_, xs, hxs⟩
    · cases h

/-- What the host's queue does not enter and every input keeps, a step keeps. -/
theorem step_keeps {P : State → Prop} (hscript : ∀ s rest, P s → P { s with script := rest })
    (hP : ∀ x s t, P s → applyInput x s = .next t → P t) {s t : State} (hs : P s) (h : step s = .next t) : P t := by
  rcases step_next_runInputs h with rfl | ⟨rest, xs, hxs⟩
  · exact hs
  · exact runInputs_keeps hP (hscript s rest hs) hxs

/-- A byte the decoder is offered is held in `Done`, and runs the rule of `dec.st` in every other state that answers. -/
theorem offerByte_next {b : Byte} {s t : State} (h : offerByte b s = .next t) :
    (s.dec.st = .done ∧ t = holdByte b s) ∨
    (assignedSt s.dec.st = true ∧ s.dec.st ≠ .done ∧ t = landDec (decByteWith Config.pKeep b s.dec) s) := by
  by_cases ha : assignedSt s.dec.st = true
  · by_cases hd : s.dec.st = .done
    · rw [offerByte_done hd] at h; cases h; exact .inl ⟨hd, rfl⟩
    · rw [offerByte_running ha hd] at h; cases h; exact .inr ⟨ha, hd, rfl⟩
  · cases hs : s.dec.st with
    | unused k => rw [offerByte_unused hs] at h; cases h
    | _ => simp [hs, assignedSt] at ha

/-! ### The encoder's invariant -/

theorem encReset_inv : EncInv EncRegs.reset := ⟨.inl rfl, fun _ => rfl, nofun⟩

/-- A request, valid or not, leaves an idle encoder with the invariant (R76). -/
theorem encRequest_inv {e : EncRegs} (h : EncInv e) (hi : e.st = .idle) (cmd : Byte) (args : List Bytes) :
    EncInv (encRequest cmd args e) := by
  cases hv : invalidArgs args with
  | true =>
    rw [encRequest_invalid hv]
    exact ⟨h.body, h.idle, fun he => nomatch hi.symm.trans he⟩
  | false =>
    have hb : IsRequestBody (requestBody cmd args) := ⟨cmd, args, hv, rfl⟩
    rw [encRequest_valid hv]
    exact ⟨.inr hb, nofun, fun _ => ⟨hb, Nat.zero_le _, rfl, rfl⟩⟩

/-- Taking one byte more, the accumulator adds it (R18, R78). -/
theorem byteSum_take_succ {body : Bytes} {n : Nat} (h : n < body.length) :
    byteSum (body.take (n + 1)) = byteSum (body.take n) + body.getD n 0 := by
  rw [List.take_succ_eq_append_getElem h, byteSum_concat, List.getD_eq_getElem _ _ h]

/-- Each arm of R78, a body byte, the checksum and the terminator, keeps the invariant. -/
theorem encAdvance_inv {e : EncRegs} (h : EncInv e) (he : e.st = .emit) : EncInv (encAdvance e) := by
  obtain ⟨hb, hidx, hsum, hstatus⟩ := h.emit he
  unfold encAdvance
  split_ifs with hlt heq
  · exact ⟨h.body, fun hi => (nomatch he.symm.trans hi),
      fun _ => ⟨hb, by simp only; omega, by simp only [hsum, byteSum_take_succ hlt], hstatus⟩⟩
  · refine ⟨h.body, fun hi => (nomatch he.symm.trans hi), fun _ => ⟨hb, Nat.le_refl _, ?_, hstatus⟩⟩
    rw [hsum, heq, List.take_length, List.take_of_length_le (Nat.le_succ _)]
  · exact ⟨h.body, fun _ => rfl, nofun⟩

theorem encAbandon_inv {e : EncRegs} (h : EncInv e) : EncInv (encAbandon e) := ⟨h.body, fun _ => rfl, nofun⟩

theorem offerRequest_encInv {s : State} (h : EncInv s.enc) (cmd : Byte) (args : List Bytes) :
    EncInv (offerRequest cmd args s).enc := by
  cases hs : s.enc.st with
  | idle => rw [offerRequest_idle hs]; exact encRequest_inv h hs cmd args
  | emit => rw [offerRequest_emit hs]; exact h

theorem offerTake_encInv {s : State} (h : EncInv s.enc) : EncInv (offerTake s).enc := by
  cases hs : s.enc.st with
  | idle => rwa [offerTake_idle hs]
  | emit => rw [offerTake_emit hs]; exact encAdvance_inv h hs

theorem offerEncFail_encInv {s : State} (h : EncInv s.enc) : EncInv (offerEncFail s).enc := by
  cases hs : s.enc.st with
  | idle => rwa [offerEncFail_idle hs]
  | emit => rw [offerEncFail_emit hs]; exact encAbandon_inv h

/-! ### The encoder's inputs at the decoder's side -/

@[simp] theorem offerRequest_dec (cmd : Byte) (args : List Bytes) (s : State) : (offerRequest cmd args s).dec = s.dec := by
  unfold offerRequest; split <;> rfl
@[simp] theorem offerRequest_heldBytes (cmd : Byte) (args : List Bytes) (s : State) :
    (offerRequest cmd args s).heldBytes = s.heldBytes := by
  unfold offerRequest; split <;> rfl
@[simp] theorem offerRequest_trace (cmd : Byte) (args : List Bytes) (s : State) :
    (offerRequest cmd args s).trace = s.trace := by
  unfold offerRequest; split <;> rfl
@[simp] theorem offerTake_dec (s : State) : (offerTake s).dec = s.dec := by unfold offerTake; split <;> rfl
@[simp] theorem offerTake_heldBytes (s : State) : (offerTake s).heldBytes = s.heldBytes := by
  unfold offerTake; split <;> rfl
@[simp] theorem offerEncFail_dec (s : State) : (offerEncFail s).dec = s.dec := by unfold offerEncFail; split <;> rfl
@[simp] theorem offerEncFail_heldBytes (s : State) : (offerEncFail s).heldBytes = s.heldBytes := by
  unfold offerEncFail; split <;> rfl
@[simp] theorem offerEncFail_trace (s : State) : (offerEncFail s).trace = s.trace := by
  unfold offerEncFail; split <;> rfl
@[simp] theorem offerDecFail_enc (s : State) : (offerDecFail s).enc = s.enc := by unfold offerDecFail; split <;> rfl
@[simp] theorem offerDecFail_heldBytes (s : State) : (offerDecFail s).heldBytes = s.heldBytes := by
  unfold offerDecFail; split <;> rfl
@[simp] theorem offerDecFail_trace (s : State) : (offerDecFail s).trace = s.trace := by
  unfold offerDecFail; split <;> rfl

/-! ### The decoder's invariant, by the kind of state -/

/-- The states of a run in which no result row is under way: all but the two that read records. -/
def noRowSt (st : DecSt) : Bool :=
  match st with
  | .readRpcStrLen | .readRpcStrData | .done | .unused _ => false
  | _ => true

theorem ne_of_noRowSt {st st' : DecSt} (h : noRowSt st = true) (h' : noRowSt st' = false) : st ≠ st' := by
  rintro rfl
  cases h.symm.trans h'

theorem assignedSt_of_noRowSt {st : DecSt} (h : noRowSt st = true) : assignedSt st = true := by
  cases st with
  | unused k => cases h
  | _ => rfl

/-- Outside `Done` no reason is set (R27). -/
theorem DecInv.reason_none {d : DecRegs} (h : DecInv d) (hd : d.st ≠ .done) : d.reason = .none :=
  not_not.mp (mt h.reason.mp hd)

/-- While a run is past `SyncHeader` the window is empty (R111). -/
theorem DecInv.win_nil {d : DecRegs} (h : DecInv d) (hs : d.st ≠ .syncHeader) (hd : d.st ≠ .done) : d.win = [] :=
  h.winEmpty hs (by simp [h.reason_none hd])

/-- With no row under way the record and the row are empty. -/
theorem DecInv.row_nil {d : DecRegs} (h : DecInv d) (hs : noRowSt d.st = true) : d.cur = [] ∧ d.fields = [] :=
  ⟨h.curEmpty (ne_of_noRowSt hs rfl),
    h.fieldsEmpty (ne_of_noRowSt hs rfl) (ne_of_noRowSt hs rfl) (ne_of_noRowSt hs rfl)⟩

/-- The invariant in a state with no row under way. -/
theorem decInv_of_noRow {d : DecRegs} (hs : noRowSt d.st = true) (hr : d.reason = .none)
    (hwl : d.win.length ≤ Config.windowLen) (hwe : d.st ≠ .syncHeader → d.win = []) (hwn : d.win ≠ Config.header)
    (hd : -255 ≤ d.dlen ∧ d.dlen ≤ 255) (hc : d.cur = []) (hf : d.fields = []) : DecInv d where
  assigned := assignedSt_of_noRowSt hs
  reason := by simp [hr, ne_of_noRowSt (st' := .done) hs rfl]
  winLength := hwl
  winEmpty h _ := hwe h
  winNoMatch := hwn
  dlenRange := hd
  fieldCount := by simp [hf]
  fieldLength := by simp [hf]
  rowBytes := by simp [hf, hc]
  curEmpty _ := hc
  fieldsEmpty _ _ _ := hf
  atStrLen h := absurd h (ne_of_noRowSt hs rfl)
  atStrData h := absurd h (ne_of_noRowSt hs rfl)

/-- The invariant in `Done`. -/
theorem decInv_of_done {d : DecRegs} (hs : d.st = .done) (hr : d.reason ≠ .none)
    (hwl : d.win.length ≤ Config.windowLen) (hwe : d.reason ≠ .transportFailure → d.win = [])
    (hwn : d.win ≠ Config.header) (hd : -255 ≤ d.dlen ∧ d.dlen ≤ 255) (hc : d.cur = [])
    (hcount : d.fields.length ≤ Config.maxFields) (hlen : ∀ f ∈ d.fields, f.length ≤ Config.maxFieldBytes)
    (hrow : lengthSum d.fields ≤ Config.maxRowBytes) : DecInv d where
  assigned := by simp [hs, assignedSt]
  reason := by simp [hs, hr]
  winLength := hwl
  winEmpty _ h := hwe h
  winNoMatch := hwn
  dlenRange := hd
  fieldCount := hcount
  fieldLength := hlen
  rowBytes := by simpa [hc] using hrow
  curEmpty _ := hc
  fieldsEmpty _ _ h := absurd hs h
  atStrLen h := nomatch hs.symm.trans h
  atStrData h := nomatch hs.symm.trans h

/-- The bounds of R26 from the account of a row: when the completed records `fields` leave room for the length byte of one
more in the 255 bytes of a result's data, adding the record `cur` keeps the bounds, however far `cur` runs over the data. -/
theorem rowBounds {fields : List Bytes} {cur : Bytes} (hf : costSum fields ≤ 254) (hc : cur.length ≤ 255) :
    fields.length + 1 ≤ Config.maxFields ∧ (∀ f ∈ fields ++ [cur], f.length ≤ Config.maxFieldBytes) ∧
    lengthSum fields + cur.length ≤ Config.maxRowBytes := by
  have hcost := costSum_eq_lengthSum fields
  refine ⟨?_, fun f hmem => ?_, ?_⟩
  · simp only [Config.maxFields]; omega
  · simp only [Config.maxFieldBytes]
    rcases List.mem_append.mp hmem with h | h
    · have := length_lt_costSum h; omega
    · rw [List.mem_singleton.mp h]; exact hc
  · simp only [Config.maxRowBytes]
    cases fields with
    | nil => simp; omega
    | cons f fs => simp only [List.length_cons] at hcost; omega

/-! ### The decoder's rules keep its invariant -/

theorem decReset_inv : DecInv DecRegs.reset :=
  decInv_of_noRow rfl rfl (Nat.zero_le _) (fun _ => rfl) nofun (by decide) rfl rfl

/-- Past `SyncHeader` with no row under way, `terminate` enters `Done` with an empty row (R130). -/
theorem terminate_inv {d : DecRegs} (h : DecInv d) (hs : noRowSt d.st = true) (hne : d.st ≠ .syncHeader) {r : Reason}
    (hr : r ≠ .none) : DecInv (terminate r d) := by
  obtain ⟨hc, hf⟩ := h.row_nil hs
  have hw : d.win = [] := h.win_nil hne (ne_of_noRowSt hs rfl)
  exact decInv_of_done rfl hr h.winLength (fun _ => hw) h.winNoMatch h.dlenRange hc (by simp [hf]) (by simp [hf])
    (by simp [hf])

/-- A rule that only moves on between states with no row under way, past `SyncHeader`, or back to it. -/
theorem moveOn_inv {d d' : DecRegs} (h : DecInv d) (hs : noRowSt d.st = true) (hne : d.st ≠ .syncHeader)
    (hs' : noRowSt d'.st = true) (hr : d'.reason = d.reason) (hw : d'.win = d.win) (hd : d'.dlen = d.dlen)
    (hc : d'.cur = d.cur) (hf : d'.fields = d.fields) : DecInv d' := by
  have hdone : d.st ≠ .done := ne_of_noRowSt hs rfl
  have hw' : d'.win = [] := hw.trans (h.win_nil hne hdone)
  obtain ⟨hc0, hf0⟩ := h.row_nil hs
  exact decInv_of_noRow hs' (hr.trans (h.reason_none hdone)) (by simp [hw']) (fun _ => hw') (hw ▸ h.winNoMatch)
    (hd ▸ h.dlenRange) (hc.trans hc0) (hf.trans hf0)

theorem ruleSyncHeader_inv {d : DecRegs} (h : DecInv d) (hs : d.st = .syncHeader) (keep : Byte → Bool) (b : Byte) :
    DecInv (ruleSyncHeader keep b d).1 := by
  obtain ⟨hc, hf⟩ := h.row_nil (by rw [hs]; rfl)
  have hr : d.reason = .none := h.reason_none (by simp [hs])
  unfold ruleSyncHeader
  split_ifs with hm
  · exact decInv_of_noRow rfl hr (Nat.zero_le _) (fun _ => rfl) nofun h.dlenRange hc hf
  · exact decInv_of_noRow (by simp [hs, noRowSt]) hr (slideWindow_length keep b d.win) (absurd hs) hm h.dlenRange hc hf

theorem ruleReadVersion_inv {d : DecRegs} (h : DecInv d) (hs : d.st = .readVersion) (b : Byte) :
    DecInv (ruleReadVersion b d).1 := by
  unfold ruleReadVersion
  split_ifs <;> exact moveOn_inv h (by rw [hs]; rfl) (by simp [hs]) rfl rfl rfl rfl rfl rfl

theorem ruleReadType_inv {d : DecRegs} (h : DecInv d) (hs : d.st = .readType) (b : Byte) : DecInv (ruleReadType b d).1 :=
  moveOn_inv h (by rw [hs]; rfl) (by simp [hs]) rfl rfl rfl rfl rfl rfl

theorem ruleReadLength_inv {d : DecRegs} (h : DecInv d) (hs : d.st = .readLength) (b : Byte) :
    DecInv (ruleReadLength b d).1 := by
  have hrow : noRowSt d.st = true := by rw [hs]; rfl
  have hne : d.st ≠ .syncHeader := by simp [hs]
  obtain ⟨hc, hf⟩ := h.row_nil hrow
  unfold ruleReadLength
  dsimp only
  split_ifs
  · exact moveOn_inv h hrow hne rfl rfl rfl rfl rfl rfl
  · exact moveOn_inv h hrow hne rfl rfl rfl rfl hc.symm hf.symm
  · exact moveOn_inv h hrow hne rfl rfl rfl rfl rfl rfl
  · exact moveOn_inv h hrow hne rfl rfl rfl rfl rfl rfl
  · exact moveOn_inv h hrow hne rfl rfl rfl rfl rfl rfl

theorem ruleReadStateByte_inv {d : DecRegs} (h : DecInv d) (hs : d.st = .readStateByte) (b : Byte) :
    DecInv (ruleReadStateByte b d).1 := by
  have hrow : noRowSt d.st = true := by rw [hs]; rfl
  have hne : d.st ≠ .syncHeader := by simp [hs]
  unfold ruleReadStateByte
  split_ifs
  · exact terminate_inv h hrow hne nofun
  · exact moveOn_inv h hrow hne rfl rfl rfl rfl rfl rfl

theorem ruleReadErrorByte_inv {d : DecRegs} (h : DecInv d) (hs : d.st = .readErrorByte) (b : Byte) :
    DecInv (ruleReadErrorByte b d).1 :=
  terminate_inv h (by rw [hs]; rfl) (by simp [hs]) nofun

theorem ruleReadRpcResponseCmd_inv {d : DecRegs} (h : DecInv d) (hs : d.st = .readRpcResponseCmd) (b : Byte) :
    DecInv (ruleReadRpcResponseCmd b d).1 :=
  moveOn_inv h (by rw [hs]; rfl) (by simp [hs]) rfl rfl rfl rfl rfl rfl

/-- The invariant before a record: `data_length` is positive and the account of the row holds (R26, R103). -/
theorem decInv_of_readRpcStrLen {d : DecRegs} (hs : d.st = .readRpcStrLen) (hr : d.reason = .none) (hw : d.win = [])
    (hc : d.cur = []) (hd : 1 ≤ d.dlen) (hcost : (costSum d.fields : Int) + d.dlen ≤ 255) : DecInv d := by
  obtain ⟨hcount, hlen, hrow⟩ := rowBounds (fields := d.fields) (cur := d.cur) (by omega) (by simp [hc])
  exact {
    assigned := by rw [hs]; rfl
    reason := by simp [hs, hr]
    winLength := by simp [hw]
    winEmpty := fun _ _ => hw
    winNoMatch := by rw [hw]; nofun
    dlenRange := by omega
    fieldCount := Nat.le_of_succ_le hcount
    fieldLength := fun f hf => hlen f (List.mem_append_left _ hf)
    rowBytes := hrow
    curEmpty := fun _ => hc
    fieldsEmpty := fun h => absurd hs h
    atStrLen := fun _ => ⟨hd, hcost⟩
    atStrData := fun h => nomatch hs.symm.trans h }

/-- The invariant inside a record that is not complete (R26, R104). -/
theorem decInv_of_readRpcStrData {d : DecRegs} (hs : d.st = .readRpcStrData) (hr : d.reason = .none) (hw : d.win = [])
    (hcur : d.cur.length < d.slen.toNat) (hd : 0 ≤ d.dlen + d.cur.length)
    (hcost : (costSum d.fields : Int) + 1 + d.cur.length + d.dlen ≤ 255) : DecInv d := by
  have hslen : d.slen.toNat < 256 := d.slen.isLt
  obtain ⟨hcount, hlen, hrow⟩ := rowBounds (fields := d.fields) (cur := d.cur) (by omega) (by omega)
  exact {
    assigned := by rw [hs]; rfl
    reason := by simp [hs, hr]
    winLength := by simp [hw]
    winEmpty := fun _ _ => hw
    winNoMatch := by rw [hw]; nofun
    dlenRange := by omega
    fieldCount := Nat.le_of_succ_le hcount
    fieldLength := fun f hf => hlen f (List.mem_append_left _ hf)
    rowBytes := hrow
    curEmpty := fun h => absurd hs h
    fieldsEmpty := fun _ h => absurd hs h
    atStrLen := fun h => nomatch hs.symm.trans h
    atStrData := fun _ => ⟨hcur, hd, hcost⟩ }

/-- `finish_record` of a complete record, from the account of its row (R26, R105). -/
theorem finishRecord_inv {d : DecRegs} (hr : d.reason = .none) (hw : d.win = []) (hcur : d.cur.length ≤ 255)
    (hd : 0 ≤ d.dlen + d.cur.length) (hcost : (costSum d.fields : Int) + 1 + d.cur.length + d.dlen ≤ 255) :
    DecInv (finishRecord d).1 := by
  have hrange : -255 ≤ d.dlen ∧ d.dlen ≤ 255 := by omega
  rcases finishRecord_cases d with ⟨hpos, h⟩ | ⟨_, _, h⟩ | ⟨_, _, h⟩ <;> rw [h]
  · exact decInv_of_readRpcStrLen rfl hr hw rfl (by simp only; omega) (by simp; omega)
  · exact decInv_of_noRow rfl hr (by simp [hw]) (fun _ => hw) (by rw [hw]; nofun) hrange rfl rfl
  · obtain ⟨hcount, hlen, hrow⟩ := rowBounds (fields := d.fields) (by omega) hcur
    exact decInv_of_done rfl nofun (by simp [hw]) (fun _ => hw) (by rw [hw]; nofun) hrange rfl (by simpa using hcount)
      hlen (by simpa using hrow)

theorem ruleReadRpcDataLen_inv {d : DecRegs} (h : DecInv d) (hs : d.st = .readRpcDataLen) (b : Byte) :
    DecInv (ruleReadRpcDataLen b d).1 := by
  have hw : d.win = [] := h.win_nil (by simp [hs]) (by simp [hs])
  obtain ⟨hc, hf⟩ := h.row_nil (by rw [hs]; rfl)
  have hb : b.toNat < 256 := b.isLt
  unfold ruleReadRpcDataLen
  dsimp only
  split_ifs with h0
  · exact decInv_of_done rfl nofun h.winLength (fun _ => hw) h.winNoMatch (by simp only [terminate_dlen]; omega) hc
      (by simp [hf]) (by simp [hf]) (by simp [hf])
  · have hpos : b.toNat ≠ 0 := fun he => h0 (BitVec.eq_of_toNat_eq he)
    exact decInv_of_readRpcStrLen rfl (h.reason_none (by simp [hs])) hw hc (by simp only; omega)
      (by simp only [hf, costSum_nil]; omega)

theorem ruleReadRpcStrLen_inv {d : DecRegs} (h : DecInv d) (hs : d.st = .readRpcStrLen) (b : Byte) :
    DecInv (ruleReadRpcStrLen b d).1 := by
  have hw : d.win = [] := h.win_nil (by simp [hs]) (by simp [hs])
  have hr : d.reason = .none := h.reason_none (by simp [hs])
  obtain ⟨hpos, hcost⟩ := h.atStrLen hs
  have hd : 0 ≤ d.dlen - 1 := by omega
  have hcost' : (costSum d.fields : Int) + 1 + 0 + (d.dlen - 1) ≤ 255 := by omega
  unfold ruleReadRpcStrLen
  dsimp only
  split_ifs with h0
  · exact finishRecord_inv hr hw (Nat.zero_le _) (by simpa using hd) (by simpa using hcost')
  · have hb : b.toNat ≠ 0 := fun he => h0 (BitVec.eq_of_toNat_eq he)
    exact decInv_of_readRpcStrData rfl hr hw (Nat.pos_of_ne_zero hb) (by simpa using hd) (by simpa using hcost')

theorem ruleReadRpcStrData_inv {d : DecRegs} (h : DecInv d) (hs : d.st = .readRpcStrData) (b : Byte) :
    DecInv (ruleReadRpcStrData b d).1 := by
  have hw : d.win = [] := h.win_nil (by simp [hs]) (by simp [hs])
  have hr : d.reason = .none := h.reason_none (by simp [hs])
  obtain ⟨hcur, hd, hcost⟩ := h.atStrData hs
  have hslen : d.slen.toNat < 256 := d.slen.isLt
  have hlen : (d.cur ++ [b]).length = d.cur.length + 1 := by simp
  have hd' : 0 ≤ d.dlen - 1 + ((d.cur ++ [b]).length : Int) := by omega
  have hcost' : (costSum d.fields : Int) + 1 + (d.cur ++ [b]).length + (d.dlen - 1) ≤ 255 := by omega
  unfold ruleReadRpcStrData
  dsimp only
  split_ifs with hcomplete
  · exact finishRecord_inv hr hw (by simp only; omega) hd' hcost'
  · have hne : (d.cur ++ [b]).length ≠ d.slen.toNat := by simpa [recordComplete] using hcomplete
    exact decInv_of_readRpcStrData hs hr hw (by simp only; omega) hd' hcost'

/-- One byte keeps the decoder's invariant, for every `P_KEEP` (R94). -/
theorem decByteWith_inv {d : DecRegs} (h : DecInv d) (keep : Byte → Bool) (b : Byte) :
    DecInv (decByteWith keep b d).1 := by
  unfold decByteWith
  split <;> rename_i hs
  · exact ruleSyncHeader_inv h hs keep b
  · exact ruleReadVersion_inv h hs b
  · exact ruleReadType_inv h hs b
  · exact ruleReadLength_inv h hs b
  · exact ruleReadStateByte_inv h hs b
  · exact ruleReadErrorByte_inv h hs b
  · exact ruleReadRpcResponseCmd_inv h hs b
  · exact ruleReadRpcDataLen_inv h hs b
  · exact ruleReadRpcStrLen_inv h hs b
  · exact ruleReadRpcStrData_inv h hs b
  · exact h
  · exact h

theorem offerDecFail_inv {s : State} (h : DecInv s.dec) : DecInv (offerDecFail s).dec := by
  by_cases hd : s.dec.st = .done
  · rwa [offerDecFail_done hd]
  · rw [offerDecFail_running hd]
    exact decInv_of_done rfl nofun h.winLength (fun hr => absurd rfl hr) h.winNoMatch h.dlenRange rfl (Nat.zero_le _)
      nofun (Nat.zero_le _)

/-! ### The machine's invariant -/

theorem reset_inv : Inv State.reset := ⟨encReset_inv, decReset_inv, nofun⟩

/-- A byte offered to the decoder keeps the invariant: it is held in `Done`, and no byte is held in any other state. -/
theorem offerByte_inv {b : Byte} {s t : State} (hs : Inv s) (h : offerByte b s = .next t) : Inv t := by
  obtain ⟨hdone, rfl⟩ | ⟨_, hd, rfl⟩ := offerByte_next h
  · exact ⟨hs.enc, hs.dec, fun _ => hdone⟩
  · exact ⟨hs.enc, decByteWith_inv hs.dec _ b, fun hb => absurd (hs.held hb) hd⟩

theorem applyInput_inv {x : Input} {s t : State} (hs : Inv s) (h : applyInput x s = .next t) : Inv t := by
  cases x with
  | encReq cmd args => cases h; exact ⟨offerRequest_encInv hs.enc cmd args, by simpa using hs.dec, by simpa using hs.held⟩
  | encTake => cases h; exact ⟨offerTake_encInv hs.enc, by simpa using hs.dec, by simpa using hs.held⟩
  | encFail => cases h; exact ⟨offerEncFail_encInv hs.enc, by simpa using hs.dec, by simpa using hs.held⟩
  | decStart => cases h; exact ⟨hs.enc, decReset_inv, nofun⟩
  | decByte b => exact offerByte_inv hs h
  | decFail =>
    cases h
    refine ⟨by simpa using hs.enc, offerDecFail_inv hs.dec, fun hb => ?_⟩
    rw [offerDecFail_heldBytes] at hb
    rw [offerDecFail_done (hs.held hb)]
    exact hs.held hb
  | reset => cases h; exact ⟨encReset_inv, decReset_inv, nofun⟩

/-- The invariant in every state that inputs reach from reset. -/
theorem runInputs_reset_inv {xs : List Input} {t : State} (h : runInputs xs State.reset = .next t) : Inv t :=
  runInputs_keeps (fun _ _ _ => applyInput_inv) reset_inv h

/-- A body the encoder holds has at most `MAX_BODY` bytes (R16, R70). -/
theorem EncInv.body_length {e : EncRegs} (h : EncInv e) : e.body.length ≤ 264 := by
  obtain hb | ⟨cmd, args, hv, hb⟩ := h.body
  · simp [hb]
  · have := (validArgs_iff args).mp hv
    rw [hb, requestBody_length]; omega

/-- The index of the next byte is at most one past the checksum (R17). -/
theorem EncInv.idx_le {e : EncRegs} (h : EncInv e) : e.idx ≤ 265 := by
  have hlen := h.body_length
  cases hs : e.st with
  | idle => rw [h.idle hs]; exact Nat.zero_le _
  | emit =>
    obtain ⟨_, hidx, _, _⟩ := h.emit hs
    omega

/-! ### What a byte puts out -/

/-- `finish_record` emits nothing but a result (R105). -/
theorem finishRecord_eventKind {d : DecRegs} {e : Event} (h : (finishRecord d).2 = some e) : eventKind e = 0x04 := by
  obtain ⟨_, hf⟩ | ⟨_, _, hf⟩ | ⟨_, _, hf⟩ := finishRecord_cases d <;> rw [hf] at h <;> cases h <;> rfl

/-- The states a byte emits an event from, with the packet type that leads to each (R92, R98). -/
theorem decByteWith_event {keep : Byte → Bool} {b : Byte} {d : DecRegs} {e : Event}
    (h : (decByteWith keep b d).2 = some e) :
    d.st = .readStateByte ∧ eventKind e = 0x01 ∨ d.st = .readErrorByte ∧ eventKind e = 0x02 ∨
      (d.st = .readRpcStrLen ∨ d.st = .readRpcStrData) ∧ eventKind e = 0x04 := by
  unfold decByteWith at h
  split at h <;> rename_i hs
  · unfold ruleSyncHeader at h; split at h <;> cases h
  · unfold ruleReadVersion at h; split at h <;> cases h
  · cases h
  · unfold ruleReadLength at h; dsimp only at h; split_ifs at h
  · unfold ruleReadStateByte at h; split at h <;> cases h <;> exact .inl ⟨hs, rfl⟩
  · cases h; exact .inr (.inl ⟨hs, rfl⟩)
  · cases h
  · unfold ruleReadRpcDataLen at h; dsimp only at h; split at h <;> cases h
  · unfold ruleReadRpcStrLen at h
    dsimp only at h
    split at h
    · exact .inr (.inr ⟨.inl hs, finishRecord_eventKind h⟩)
    · cases h
  · unfold ruleReadRpcStrData at h
    dsimp only at h
    split at h
    · exact .inr (.inr ⟨.inr hs, finishRecord_eventKind h⟩)
    · cases h
  · cases h
  · cases h

/-! ### The statements -/

/-- Settles O52: a step runs inputs, and each input keeps the invariant of both agents and of the held bytes. -/
theorem stepKeepsInv : Obligations.StepKeepsInv := by
  intro s t hs h
  exact step_keeps (P := Inv) (fun _ _ hu => ⟨hu.enc, hu.dec, hu.held⟩) (fun _ _ _ => applyInput_inv) hs h

/-- Settles O48, by the input; of the bytes offered to the decoder only one that a rule answers with an event puts one out. -/
theorem oneOutputPerInput : Obligations.OneOutputPerInput := by
  intro x s t h
  cases x with
  | encReq cmd args => cases h; exact .inl (offerRequest_trace cmd args s)
  | encTake =>
    cases h
    cases hs : s.enc.st with
    | idle => exact .inl (by rw [offerTake_idle hs])
    | emit => exact .inr (.inl ⟨rfl, encPresented s.enc, by rw [offerTake_emit hs]⟩)
  | encFail => cases h; exact .inl (offerEncFail_trace s)
  | decStart => cases h; exact .inl rfl
  | decByte b =>
    obtain ⟨_, rfl⟩ | ⟨_, _, rfl⟩ := offerByte_next h
    · exact .inl rfl
    · cases he : (decByteWith Config.pKeep b s.dec).2 with
      | none => exact .inl (by simp [he])
      | some e => exact .inr (.inr ⟨b, e, rfl, by simp [he], decByteWith_event he⟩)
  | decFail => cases h; exact .inl (offerDecFail_trace s)
  | reset => cases h; exact .inl rfl

/-- Settles O55: the bounds are clauses of the invariant, which every list of inputs keeps from reset. -/
theorem decoderBoundsInReachableStates : Obligations.DecoderBoundsInReachableStates := by
  intro xs t h
  have hd : DecInv t.dec := (runInputs_reset_inv h).dec
  refine ⟨hd.winLength, hd.dlenRange, fun hs => ?_, hd.fieldCount, hd.rowBytes⟩
  obtain ⟨hcur, _, _⟩ := hd.atStrData hs
  exact ⟨hcur, Nat.le_of_lt_succ t.dec.slen.isLt⟩

/-- Settles O56: the index is at most 265 and `data_length` within -255 to 255, so nine bits hold both. -/
theorem registersFitTheirWidths : Obligations.RegistersFitTheirWidths := by
  intro s hs
  have hidx : s.enc.idx ≤ 265 := hs.enc.idx_le
  obtain ⟨hlo, hhi⟩ := hs.dec.dlenRange
  refine ⟨?_, hidx, hs.enc.body_length, ?_⟩
  · rw [idxBits, BitVec.toNat_ofNat]
    exact Nat.mod_eq_of_lt (by omega)
  · rw [dlenBits, BitVec.toInt_ofInt]
    exact Int.bmod_eq_of_le (by omega) (by omega)

/-- Settles O33: the byte faults wherever it is offered in an unused code, and elsewhere the row is refused. -/
theorem unusedDecoderStateFaults : Obligations.UnusedDecoderStateFaults := by
  refine ⟨fun s k b bs hs => ⟨?_, ?_⟩, fun s t k b h => ?_⟩
  · exact whenSelected_here hs _
  · change offerBytes (b :: bs) s = _
    rw [offerBytes_cons, offerByte_unused hs, andThen_fault]
  · obtain ⟨hs, hb⟩ := exec_decRow_next (st := .unused k) h
    cases (offerByte_unused hs b).symm.trans hb

/-- Settles O45: each register of `State.reset` is R34's value, read through its code. -/
theorem stateAfterReset : Obligations.StateAfterReset := by
  refine ⟨rfl, rfl, rfl, rfl, rfl, rfl, rfl, rfl, rfl, rfl, ?_, rfl, rfl, rfl, rfl, rfl, rfl⟩
  decide

/-- Settles O53: nothing is latched, no run is under way and no byte is held. -/
theorem resetHasInv : Obligations.ResetHasInv := reset_inv

end Sys2Proof.Machine
end

section
/-! PROOFS, family 20_memory.md. An input of one agent is a write to that agent's side of the state, chosen by the agent's
registers alone; writes to the two sides commute on everything but the place of the outputs in the common trace (R42). -/

namespace Sys2Proof.Machine

/-! ### The bytes and the events of a trace (R14) -/

@[simp] theorem bytesOf_append (xs ys : List Output) : bytesOf (xs ++ ys) = bytesOf xs ++ bytesOf ys :=
  List.filterMap_append

@[simp] theorem eventsOf_append (xs ys : List Output) : eventsOf (xs ++ ys) = eventsOf xs ++ eventsOf ys :=
  List.filterMap_append

@[simp] theorem bytesOf_map_event (es : List Event) : bytesOf (es.map Output.event) = [] := by
  simp [bytesOf]

@[simp] theorem eventsOf_map_byte (bs : Bytes) : eventsOf (bs.map Output.byte) = [] := by
  simp [eventsOf]

/-! ### The two sides of the state -/

/-- A write to the encoder's side: its registers, the requests held for it (log 5) and the bytes it presents. -/
def writeEncoderSide (enc : EncRegs) (held : List (Byte × List Bytes) → List (Byte × List Bytes)) (bs : Bytes)
    (s : State) : State :=
  { s with enc := enc, heldRequests := held s.heldRequests, trace := s.trace ++ bs.map Output.byte }

/-- A write to the decoder's side: its registers, the bytes held for it (log 4) and the events it emits. -/
def writeDecoderSide (dec : DecRegs) (held : Bytes → Bytes) (es : List Event) (s : State) : State :=
  { s with dec := dec, heldBytes := held s.heldBytes, trace := s.trace ++ es.map Output.event }

/-- An encoder input always answers; what it writes to the encoder's side is the same from every state with these encoder
registers (R42, R90). -/
theorem encoderInput_writes {x : Input} (hx : encoderInput x = true) (e : EncRegs) :
    ∃ enc held bs, ∀ s : State, s.enc = e → applyInput x s = .next (writeEncoderSide enc held bs s) := by
  cases x with
  | encReq cmd args =>
    cases he : e.st with
    | idle =>
      exact ⟨encRequest cmd args e, (·.erase (cmd, args)), [],
        by rintro s rfl; simp [applyInput, offerRequest_idle he, writeEncoderSide]⟩
    | emit =>
      exact ⟨e, (· ++ [(cmd, args)]), [], by rintro s rfl; simp [applyInput, offerRequest_emit he, writeEncoderSide]⟩
  | encTake =>
    cases he : e.st with
    | idle => exact ⟨e, id, [], by rintro s rfl; simp [applyInput, offerTake_idle he, writeEncoderSide]⟩
    | emit =>
      exact ⟨encAdvance e, id, [encPresented e], by rintro s rfl; simp [applyInput, offerTake_emit he, writeEncoderSide]⟩
  | encFail =>
    cases he : e.st with
    | idle => exact ⟨e, id, [], by rintro s rfl; simp [applyInput, offerEncFail_idle he, writeEncoderSide]⟩
    | emit => exact ⟨encAbandon e, id, [], by rintro s rfl; simp [applyInput, offerEncFail_emit he, writeEncoderSide]⟩
  | decStart | decByte | decFail | reset => cases hx

/-- What a decoder input that answers writes to the decoder's side is the same from every state with these decoder registers
(R42, R90). -/
theorem decoderInput_writes {y : Input} (hy : decoderInput y = true) {u t : State} (h : applyInput y u = .next t) :
    ∃ dec held es, ∀ s : State, s.dec = u.dec → applyInput y s = .next (writeDecoderSide dec held es s) := by
  cases y with
  | decStart => exact ⟨DecRegs.reset, fun _ => [], [], fun s _ => by simp [applyInput, startRun, writeDecoderSide]⟩
  | decByte b =>
    obtain ⟨hd, _⟩ | ⟨ha, hd, _⟩ := offerByte_next h
    · refine ⟨u.dec, (· ++ [b]), [], fun s hs => ?_⟩
      rw [← hs] at hd ⊢
      simp [applyInput, offerByte_done hd, holdByte, writeDecoderSide]
    · refine ⟨(decByteWith Config.pKeep b u.dec).1, id, (decByteWith Config.pKeep b u.dec).2.toList, fun s hs => ?_⟩
      rw [← hs] at ha hd ⊢
      simp [applyInput, offerByte_running ha hd, landDec, writeDecoderSide, Option.toList_map]
  | decFail =>
    by_cases hd : u.dec.st = .done
    · refine ⟨u.dec, id, [], fun s hs => ?_⟩
      rw [← hs] at hd ⊢
      simp [applyInput, offerDecFail_done hd, writeDecoderSide]
    · refine ⟨terminate .transportFailure { u.dec with cur := [], fields := [] }, id, [], fun s hs => ?_⟩
      rw [← hs] at hd ⊢
      simp [applyInput, offerDecFail_running hd, writeDecoderSide]
  | encReq | encTake | encFail | reset => cases hy

/-! ### The statements -/

/-- Settles O50: neither write changes the registers that choose the other, so the other order makes the same two writes. -/
theorem agentInputsCommute : Obligations.AgentInputsCommute := by
  intro x y s t hx hy h
  obtain ⟨enc, heldR, bs, hxs⟩ := encoderInput_writes hx s.enc
  rw [runInputs_cons, hxs s rfl, andThen_next, runInputs_singleton] at h
  obtain ⟨dec, heldB, es, hys⟩ := decoderInput_writes hy h
  have ht : t = writeDecoderSide dec heldB es (writeEncoderSide enc heldR bs s) := by
    rw [hys _ rfl] at h
    cases h
    rfl
  have hyx : runInputs [y, x] s = .next (writeEncoderSide enc heldR bs (writeDecoderSide dec heldB es s)) := by
    rw [runInputs_cons, hys s rfl, andThen_next, runInputs_singleton]
    exact hxs _ rfl
  subst ht
  exact ⟨_, hyx, rfl, rfl, rfl, rfl, by simp [writeEncoderSide, writeDecoderSide],
    by simp [writeEncoderSide, writeDecoderSide]⟩

end Sys2Proof.Machine
end

section
/-! PROOFS, family 30_encoding.md, first part: `decode` and `encode` are inverse. Each reader takes exactly the bytes that the
encoder writes for what it answers, position of the table by position. -/

namespace Sys2Proof

open Machine

/-! ### The operand readers read nothing but encodings -/

theorem markBytes_cons (b : Byte) (bs : Bytes) : markBytes (b :: bs) = markByte :: b :: markBytes bs := rfl

theorem encodeStrings_cons (a : Bytes) (as : List Bytes) :
    encodeStrings (a :: as) = markString :: (markBytes a ++ encodeStrings as) := by
  simp [encodeStrings]

theorem encodeCount_succ (n : Nat) : encodeCount (n + 1) = markByte :: encodeCount n := rfl

/-- What `readMarked` reads is the encoding of what it answers, and then the rest. -/
theorem eq_of_readMarked {bs h : Bytes} {t : List Bytes} {q : Bytes} (hr : readMarked bs = some (h, t, q)) :
    bs = markBytes h ++ (encodeStrings t ++ q) := by
  induction bs using readMarked.induct generalizing h t q with
  | case1 => cases hr
  | case2 r => cases (readMarked_end r).symm.trans hr; rfl
  | case3 r _ ih =>
    rw [readMarked_string] at hr
    obtain ⟨⟨h', t', q'⟩, hr', he⟩ := Option.map_eq_some_iff.mp hr
    cases he
    rw [ih hr', encodeStrings_cons]
    simp [markBytes]
  | case4 => cases hr
  | case5 _ _ b r ih =>
    rw [readMarked_byte] at hr
    obtain ⟨⟨h', t', q'⟩, hr', he⟩ := Option.map_eq_some_iff.mp hr
    cases he
    rw [ih hr', markBytes_cons]
    rfl
  | case6 m r h0 h2 h1 =>
    rw [readMarked.eq_def] at hr
    simp [h0, h1, h2] at hr

theorem eq_of_readStrings {bs : Bytes} {as : List Bytes} {q : Bytes} (hr : readStrings bs = some (as, q)) :
    bs = encodeStrings as ++ q := by
  unfold readStrings at hr
  split at hr
  · next hm => cases hr; exact eq_of_readMarked hm
  · cases hr

theorem eq_of_readBytes {bs a q : Bytes} (hr : readBytes bs = some (a, q)) : bs = encodeBytes a ++ q := by
  unfold readBytes at hr
  split at hr
  · next hm => cases hr; simpa [encodeBytes, encodeStrings] using eq_of_readMarked hm
  · cases hr

theorem eq_of_readCount {bs : Bytes} {n : Nat} {q : Bytes} (hr : readCount bs = some (n, q)) :
    bs = encodeCount n ++ q := by
  induction bs using readCount.induct generalizing n q with
  | case1 => cases hr
  | case2 r => cases (readCount_end r).symm.trans hr; rfl
  | case3 r _ ih =>
    rw [readCount_more] at hr
    obtain ⟨⟨n', q'⟩, hr', he⟩ := Option.map_eq_some_iff.mp hr
    cases he
    rw [ih hr', encodeCount_succ]
    rfl
  | case4 m r h0 h1 => simp [readCount, h0, h1] at hr

/-- An operand makes an instruction exactly where it could be read and means one. -/
theorem withOperand_eq_ok {α : Type} {x : Option (α × Bytes)} {f : α → Option Instr} {i : Instr} {q : Bytes} :
    withOperand x f = .ok (i, q) ↔ ∃ a, x = some (a, q) ∧ f a = some i := by
  unfold withOperand
  rcases x with _ | ⟨a, r⟩
  · simp
  · cases hf : f a with
    | none => simp [hf]
    | some j => simp [hf, and_comm]

/-! ### Frames (R48, R51) -/

theorem encode_frameInstr (t : Byte) (payload : Bytes) (csum term : Byte) :
    encode (frameInstr t payload csum term) = wireFrame t payload csum term := by
  unfold frameInstr
  split_ifs <;> subst_vars <;> rfl

theorem frameInstr_of_isUnknownType {t : Byte} (h : isUnknownType t = true) (payload : Bytes) (csum term : Byte) :
    frameInstr t payload csum term = .unknownPacketType t payload csum term := by
  simp only [isUnknownType, Bool.and_eq_true, bne_iff_ne] at h
  simp [frameInstr, h]

/-- The wire bytes of a frame, header, version, type, length and the rest (R48). -/
theorem wireFrame_eq (t : Byte) (payload : Bytes) (csum term : Byte) (q : Bytes) :
    wireFrame t payload csum term ++ q =
      Config.header ++ Config.version :: t :: BitVec.ofNat 8 payload.length :: (payload ++ csum :: term :: q) := by
  simp [wireFrame, frameBody]

theorem toNat_ofNat_of_le {n : Nat} (h : n ≤ 255) : (BitVec.ofNat 8 n).toNat = n :=
  (BitVec.toNat_ofNat n 8).trans (Nat.mod_eq_of_lt (Nat.lt_succ_of_le h))

theorem ofNat_ne_zero {n : Nat} (h0 : 0 < n) (h : n ≤ 255) : BitVec.ofNat 8 n ≠ 0 := fun he =>
  h0.ne' ((toNat_ofNat_of_le h).symm.trans (congrArg BitVec.toNat he))

theorem readFrame_wireFrame {payload : Bytes} (h : payloadFits payload = true) (t csum term : Byte) (q : Bytes) :
    readFrame (wireFrame t payload csum term ++ q) = .ok (frameInstr t payload csum term, q) := by
  have hlen : (BitVec.ofNat 8 payload.length).toNat = payload.length := toNat_ofNat_of_le (of_decide_eq_true h)
  simp [wireFrame_eq, readFrame, Config.header, -BitVec.toNat_ofNat, hlen]

/-- What `readFrame` reads is the wire bytes of what it answers. -/
theorem eq_of_readFrame {bs : Bytes} {i : Instr} {q : Bytes} (hr : readFrame bs = .ok (i, q)) :
    bs = encode i ++ q := by
  unfold readFrame at hr
  split_ifs at hr with hhead
  split at hr
  · next v t l rest hdrop =>
    split_ifs at hr with hv
    split at hr
    · next c e _ hend =>
      cases hr
      have hlen : (rest.take l.toNat).length = l.toNat := by
        have := congrArg List.length hend
        simp only [List.length_drop, List.length_cons] at this
        rw [List.length_take]
        omega
      calc bs = bs.take 6 ++ bs.drop 6 := (List.take_append_drop 6 bs).symm
        _ = Config.header ++ v :: t :: l :: (rest.take l.toNat ++ rest.drop l.toNat) := by
          rw [hhead, hdrop, List.take_append_drop]
        _ = encode (frameInstr t (rest.take l.toNat) c e) ++ q := by
          rw [encode_frameInstr, wireFrame_eq, hend, hv, hlen, BitVec.ofNat_toNat, BitVec.setWidth_eq]
    · cases hr
  · cases hr

/-! ### Command ids (R61) -/

theorem encode_of_commandRequest {c : Byte} {args : List Bytes} {i : Instr} (h : commandRequest c args = some i) :
    encode i = encodeRequest c args := by
  unfold commandRequest at h
  split_ifs at h <;> subst_vars
  · unfold twoStrings at h
    split at h <;> cases h
    rfl
  all_goals cases h; rfl

theorem encode_commandResponse (c : Byte) (records : List Bytes) :
    encode (commandResponse c records) = encodeResponse c records := by
  unfold commandResponse
  split_ifs <;> subst_vars <;> rfl

theorem commandRequest_of_isUnassignedId {c : Byte} (h : isUnassignedId c = true) (args : List Bytes) :
    commandRequest c args = some (.unassignedCommandId c (.request args)) := by
  simp only [isUnassignedId, Bool.and_eq_true, bne_iff_ne] at h
  simp [commandRequest, h]

theorem commandResponse_of_isUnassignedId {c : Byte} (h : isUnassignedId c = true) (records : List Bytes) :
    commandResponse c records = .unassignedCommandId c (.response records) := by
  simp only [isUnassignedId, Bool.and_eq_true, bne_iff_ne] at h
  simp [commandResponse, h]

theorem readCommandId_request {c : Byte} {args : List Bytes} {i : Instr} (h : commandRequest c args = some i) (q : Bytes) :
    readCommandId (c :: 0 :: (encodeStrings args ++ q)) = .ok (i, q) := by
  simp [readCommandId, withOperand_eq_ok, h]

theorem readCommandId_response (c : Byte) (records : List Bytes) (q : Bytes) :
    readCommandId (c :: 1 :: (encodeStrings records ++ q)) = .ok (commandResponse c records, q) := by
  simp [readCommandId, withOperand_eq_ok]

theorem eq_of_readCommandId {bs : Bytes} {i : Instr} {q : Bytes} (hr : readCommandId bs = .ok (i, q)) :
    leadCommandId :: bs = encode i ++ q := by
  unfold readCommandId at hr
  split at hr
  · next c place r =>
    split_ifs at hr with h0 h1
    · obtain ⟨args, hargs, hi⟩ := withOperand_eq_ok.mp hr
      rw [encode_of_commandRequest hi, eq_of_readStrings hargs, h0]
      rfl
    · obtain ⟨records, hrecords, hi⟩ := withOperand_eq_ok.mp hr
      cases hi
      rw [encode_commandResponse, eq_of_readStrings hrecords, h1]
      rfl
  · cases hr

/-! ### Decoder states (R20, R65) -/

theorem encode_decRow (st : DecSt) (b : Byte) : encode (decRow st b) = encodeDecByte st b := by
  cases st <;> rfl

/-- The rows at the `decoder.state` position are the rows of the decoder's states. -/
theorem exists_decRow_of_leadOf {i : Instr} (h : leadOf i = leadDecByte) : ∃ st b, i = decRow st b := by
  cases i with
  | decByteSyncHeader b => exact ⟨.syncHeader, b, rfl⟩
  | decByteReadVersion b => exact ⟨.readVersion, b, rfl⟩
  | decByteReadType b => exact ⟨.readType, b, rfl⟩
  | decByteReadLength b => exact ⟨.readLength, b, rfl⟩
  | decByteReadStateByte b => exact ⟨.readStateByte, b, rfl⟩
  | decByteReadErrorByte b => exact ⟨.readErrorByte, b, rfl⟩
  | decByteReadRpcResponseCmd b => exact ⟨.readRpcResponseCmd, b, rfl⟩
  | decByteReadRpcDataLen b => exact ⟨.readRpcDataLen, b, rfl⟩
  | decByteReadRpcStrLen b => exact ⟨.readRpcStrLen, b, rfl⟩
  | decByteReadRpcStrData b => exact ⟨.readRpcStrData, b, rfl⟩
  | decByteDone b => exact ⟨.done, b, rfl⟩
  | decStateUnused k b => exact ⟨.unused k, b, rfl⟩
  | rpcCommand form => cases form <;> exact absurd h (by simp only [leadOf]; decide)
  | _ => exact absurd h (by simp only [leadOf]; decide)

/-- A code below 16 is the code byte of the state it stands for (R20). -/
theorem stByte_stOfCode {c : Byte} (h : c.toNat < 16) : stByte (stOfCode (BitVec.ofNat 4 c.toNat)) = c := by
  rw [stByte, stCode_stOfCode]
  apply BitVec.eq_of_toNat_eq
  simp only [BitVec.toNat_ofNat]
  omega

theorem stByte_injective : Function.Injective stByte := fun st st' h => by
  rw [← stOfCode_stByte st, h, stOfCode_stByte]

theorem readDecByte_stByte (st : DecSt) (b : Byte) (q : Bytes) :
    readDecByte (stByte st :: b :: q) = .ok (decRow st b, q) := by
  rw [readDecByte, if_pos (stByte_lt st), stOfCode_stByte]

theorem eq_of_readDecByte {bs : Bytes} {i : Instr} {q : Bytes} (hr : readDecByte bs = .ok (i, q)) :
    leadDecByte :: bs = encode i ++ q := by
  unfold readDecByte at hr
  split at hr
  · split_ifs at hr with hc
    cases hr
    rw [encode_decRow, encodeDecByte, stByte_stOfCode hc]
    rfl
  · cases hr

/-! ### The host's operations (R66, R67) and the frames to produce -/

theorem readScript_enc (cmd : Byte) (args : List Bytes) (q : Bytes) :
    readScript (0 :: cmd :: (encodeStrings args ++ q)) = .ok (.enc cmd args, q) := by
  simp [readScript, withOperand_eq_ok]

theorem readScript_take (n : Nat) (q : Bytes) : readScript (1 :: (encodeCount n ++ q)) = .ok (.take n, q) := by
  simp [readScript, withOperand_eq_ok]

theorem readScript_feed (bs q : Bytes) : readScript (5 :: (encodeBytes bs ++ q)) = .ok (.feed bs, q) := by
  simp [readScript, withOperand_eq_ok]

theorem readPseudo_wifi (ssid password q : Bytes) :
    readPseudo (0 :: (encodeStrings [ssid, password] ++ q)) = .ok (.wifi ssid password, q) := by
  simp [readPseudo, withOperand_eq_ok, twoStrings]

theorem readProduce_encodeStrings (cmd : Byte) (args : List Bytes) (q : Bytes) :
    readProduce (cmd :: (encodeStrings args ++ q)) = .ok (.rpcCommand (.produced cmd args), q) := by
  simp [readProduce, withOperand_eq_ok]

theorem eq_of_readScript {bs : Bytes} {i : Instr} {q : Bytes} (hr : readScript bs = .ok (i, q)) :
    leadScript :: bs = encode i ++ q := by
  unfold readScript at hr
  split at hr
  · cases hr
  · split_ifs at hr <;> subst_vars
    · split at hr
      · obtain ⟨args, hargs, hi⟩ := withOperand_eq_ok.mp hr
        cases hi
        rw [eq_of_readStrings hargs]
        rfl
      · cases hr
    · obtain ⟨n, hn, hi⟩ := withOperand_eq_ok.mp hr
      cases hi
      rw [eq_of_readCount hn]
      rfl
    · cases hr; rfl
    · cases hr; rfl
    · cases hr; rfl
    · obtain ⟨fed, hfed, hi⟩ := withOperand_eq_ok.mp hr
      cases hi
      rw [eq_of_readBytes hfed]
      rfl
    · cases hr; rfl
    · cases hr; rfl

theorem eq_of_readPseudo {bs : Bytes} {i : Instr} {q : Bytes} (hr : readPseudo bs = .ok (i, q)) :
    leadPseudo :: bs = encode i ++ q := by
  unfold readPseudo at hr
  split at hr
  · cases hr
  · split_ifs at hr <;> subst_vars
    · obtain ⟨args, hargs, hi⟩ := withOperand_eq_ok.mp hr
      unfold twoStrings at hi
      split at hi <;> cases hi
      rw [eq_of_readStrings hargs]
      rfl
    all_goals cases hr; rfl

theorem eq_of_readProduce {bs : Bytes} {i : Instr} {q : Bytes} (hr : readProduce bs = .ok (i, q)) :
    leadProduce :: bs = encode i ++ q := by
  unfold readProduce at hr
  split at hr
  · obtain ⟨args, hargs, hi⟩ := withOperand_eq_ok.mp hr
    cases hi
    rw [eq_of_readStrings hargs]
    rfl
  · cases hr

/-! ### Decoding and encoding are inverse -/

/-- What `decodeRaw` reads is the encoding of what it answers. -/
theorem eq_of_decodeRaw {bs : Bytes} {i : Instr} {q : Bytes} (hr : decodeRaw bs = .ok (i, q)) : bs = encode i ++ q := by
  unfold decodeRaw at hr
  split at hr
  · cases hr
  · split_ifs at hr <;> subst_vars
    · exact eq_of_readFrame hr
    · exact eq_of_readCommandId hr
    · exact eq_of_readDecByte hr
    · exact eq_of_readScript hr
    · exact eq_of_readPseudo hr
    · exact eq_of_readProduce hr

theorem decodeRaw_wireFrame {payload : Bytes} (h : payloadFits payload = true) (t csum term : Byte) (q : Bytes) :
    decodeRaw (wireFrame t payload csum term ++ q) = .ok (frameInstr t payload csum term, q) := by
  rw [← readFrame_wireFrame h, wireFrame_eq]
  rfl

theorem decodeRaw_encodeRequest {c : Byte} {args : List Bytes} {i : Instr} (h : commandRequest c args = some i)
    (q : Bytes) : decodeRaw (encodeRequest c args ++ q) = .ok (i, q) :=
  readCommandId_request h q

theorem decodeRaw_encodeResponse (c : Byte) (records : List Bytes) (q : Bytes) :
    decodeRaw (encodeResponse c records ++ q) = .ok (commandResponse c records, q) :=
  readCommandId_response c records q

theorem decodeRaw_encodeDecByte (st : DecSt) (b : Byte) (q : Bytes) :
    decodeRaw (encodeDecByte st b ++ q) = .ok (decRow st b, q) :=
  readDecByte_stByte st b q

theorem decodeRaw_encode {i : Instr} (h : WellFormed i) (q : Bytes) : decodeRaw (encode i ++ q) = .ok (i, q) := by
  by_cases hrow : leadOf i = leadDecByte
  · obtain ⟨st, b, rfl⟩ := exists_decRow_of_leadOf hrow
    rw [encode_decRow]
    exact decodeRaw_encodeDecByte st b q
  cases i with
  | currentState payload csum term => exact decodeRaw_wireFrame h _ csum term q
  | errorState payload csum term => exact decodeRaw_wireFrame h _ csum term q
  | rpcResult payload csum term => exact decodeRaw_wireFrame h _ csum term q
  | unknownPacketType t payload csum term =>
    obtain ⟨ht, hp⟩ := Bool.and_eq_true_iff.mp h
    rw [← frameInstr_of_isUnknownType ht, encode_frameInstr]
    exact decodeRaw_wireFrame hp t csum term q
  | rpcCommand form =>
    cases form with
    | received payload csum term => exact decodeRaw_wireFrame h _ csum term q
    | produced cmd args => exact readProduce_encodeStrings cmd args q
  | wifiSettings form | currentStateCmd form | deviceInfo form | scanWifi form =>
    cases form with
    | request => exact decodeRaw_encodeRequest rfl q
    | response records => exact decodeRaw_encodeResponse _ records q
  | unassignedCommandId c form =>
    cases form with
    | request args => exact decodeRaw_encodeRequest (commandRequest_of_isUnassignedId h args) q
    | response records =>
      obtain ⟨hc, _⟩ := Bool.and_eq_true_iff.mp h
      rw [← commandResponse_of_isUnassignedId hc, encode_commandResponse]
      exact decodeRaw_encodeResponse c records q
  | enc cmd args => exact readScript_enc cmd args q
  | take n => exact readScript_take n q
  | feed bs => exact readScript_feed bs q
  | wifi ssid password => exact readPseudo_wifi ssid password q
  | drain | encFail | start | decFail | reset | getState | info | scan => rfl
  | _ => exact absurd rfl hrow

/-- `decode` answers what `decodeRaw` answers where that is well formed. -/
theorem decode_eq_ok {bs : Bytes} {i : Instr} {q : Bytes} :
    decode bs = .ok (i, q) ↔ decodeRaw bs = .ok (i, q) ∧ WellFormed i := by
  constructor
  · intro h
    unfold decode at h
    split at h
    · cases h
    · next hraw =>
      split_ifs at h with hwf
      cases h
      exact ⟨hraw, hwf⟩
  · rintro ⟨hraw, hwf⟩
    simp only [decode, hraw, hwf, if_true]

/-- Settles O1: by the position of the instruction in the table; each reader reads back the operands its encoding writes. -/
theorem decodeOfEncodeGivesInstruction : Obligations.DecodeOfEncodeGivesInstruction := by
  intro i rest h
  exact decode_eq_ok.mpr ⟨decodeRaw_encode h rest, h⟩

/-- Settles O2: no reader takes bytes but those the encoder writes for what it answers. -/
theorem encodeOfDecodeGivesBytes : Obligations.EncodeOfDecodeGivesBytes := by
  intro bs i rest h
  obtain ⟨hraw, hwf⟩ := decode_eq_ok.mp h
  exact ⟨hwf, eq_of_decodeRaw hraw⟩

end Sys2Proof
end

section
/-! PROOFS, family 30_encoding.md, second part: what the host queues is what is fetched, no operation stops under the invariant,
takes present the frame that goes out, bytes fed to the decoder run it up to the first terminal condition, and a well-formed
result frame runs it through its row. -/

namespace Sys2Proof.Machine

/-! ### Fetch -/

theorem encode_eq_leadOf_cons (i : Instr) : Laws.Lead.Statement i := by
  cases i with
  | rpcCommand form => exact Laws.Lead.rpcCommand form
  | wifiSettings form => exact Laws.Lead.wifiSettings form
  | currentStateCmd form => exact Laws.Lead.currentStateCmd form
  | deviceInfo form => exact Laws.Lead.deviceInfo form
  | scanWifi form => exact Laws.Lead.scanWifi form
  | unassignedCommandId cmd form => exact Laws.Lead.unassignedCommandId cmd form
  | _ => exact ⟨_, rfl⟩

/-- For a decoder-state row the host queues the lead byte and the input byte. -/
theorem queueBytes_decRow (st : DecSt) (b : Byte) : queueBytes (decRow st b) = [leadDecByte, b] := by
  rw [queueBytes, encode_decRow]
  rfl

/-- For every other row the host queues the encoding. -/
theorem queueBytes_of_leadOf_ne {i : Instr} (h : leadOf i ≠ leadDecByte) : queueBytes i = encode i := by
  obtain ⟨r, hr⟩ := encode_eq_leadOf_cons i
  rw [queueBytes, hr]
  exact if_neg h

/-- Where the host offers an input byte, the code of `dec.st` is fetched before it (R65). -/
theorem fetchBytes_leadDecByte {s : State} {r : Bytes} (h : s.script = leadDecByte :: r) :
    fetchBytes s = leadDecByte :: stByte s.dec.st :: r := by
  rw [fetchBytes, h]
  exact if_pos rfl

theorem fetchBytes_of_ne {s : State} {x : Byte} {r : Bytes} (h : s.script = x :: r) (hx : x ≠ leadDecByte) :
    fetchBytes s = x :: r := by
  rw [fetchBytes, h]
  exact if_neg hx

/-- What is queued for an instruction is fetched as its encoding, for a decoder-state row where `dec.st` selects it. -/
theorem fetchBytes_queueBytes {i : Instr} {s : State} {rest : Bytes} (h : s.script = queueBytes i ++ rest)
    (hrow : ∀ st b, i = decRow st b → s.dec.st = st) : fetchBytes s = encode i ++ rest := by
  by_cases hl : leadOf i = leadDecByte
  · obtain ⟨st, b, rfl⟩ := exists_decRow_of_leadOf hl
    rw [queueBytes_decRow] at h
    rw [fetchBytes_leadDecByte h, hrow st b rfl, encode_decRow]
    rfl
  · obtain ⟨r, hr⟩ := encode_eq_leadOf_cons i
    rw [queueBytes_of_leadOf_ne hl, hr] at h
    rw [fetchBytes_of_ne h hl, hr]
    rfl

/-- A decoder-state row that is fetched is the row of `dec.st` (R65). -/
theorem dec_st_of_decode_fetchBytes {s : State} {st : DecSt} {b : Byte} {rest : Bytes}
    (h : decode (fetchBytes s) = .ok (decRow st b, rest)) : s.dec.st = st := by
  obtain ⟨hraw, _⟩ := decode_eq_ok.mp h
  have hfetch : fetchBytes s = leadDecByte :: stByte st :: b :: rest := by
    rw [eq_of_decodeRaw hraw, encode_decRow]
    rfl
  cases hs : s.script with
  | nil => rw [fetchBytes, hs] at hfetch; cases hfetch
  | cons x r =>
    by_cases hx : x = leadDecByte
    · rw [fetchBytes_leadDecByte (hx ▸ hs)] at hfetch
      exact stByte_injective (List.cons.inj (List.cons.inj hfetch).2).1
    · rw [fetchBytes_of_ne hs hx] at hfetch
      exact absurd (List.cons.inj hfetch).1 hx

theorem step_of_decode {s : State} {i : Instr} {rest : Bytes} (h : decode (fetchBytes s) = .ok (i, rest)) :
    step s = exec i { s with script := rest } := by
  cases hs : s.script with
  | nil => rw [fetchBytes, hs] at h; cases h
  | cons x r => simp only [step, hs, h]

/-! ### Operations that stop nowhere -/

/-- A row at another position than `decoder.state` is a list of inputs, in every state (R9, R66). -/
theorem exec_eq_runInputs {i : Instr} (h : leadOf i ≠ leadDecByte) (s : State) : ∃ xs, exec i s = runInputs xs s := by
  have one (x : Input) : ∃ xs, applyInput x s = runInputs xs s := ⟨[x], (runInputs_singleton x s).symm⟩
  cases i with
  | currentState | errorState | rpcResult | unknownPacketType | take | drain | feed => exact ⟨_, rfl⟩
  | rpcCommand form =>
    cases form with
    | received => exact ⟨_, rfl⟩
    | produced cmd args =>
      cases hs : s.enc.st with
      | idle =>
        refine ⟨.encReq cmd args :: List.replicate (takesLeft (offerRequest cmd args s).enc) .encTake, ?_⟩
        simp only [exec, execRpcCommand, hs]
        rfl
      | emit =>
        simp only [exec, execRpcCommand, hs]
        exact one (.encReq cmd args)
  | wifiSettings form | currentStateCmd form | deviceInfo form | scanWifi form | unassignedCommandId _ form =>
    cases form with
    | request => exact one (.encReq _ _)
    | response => exact ⟨_, rfl⟩
  | enc | wifi | getState | info | scan => exact one (.encReq _ _)
  | encFail => exact one .encFail
  | start => exact one .decStart
  | decFail => exact one .decFail
  | reset => exact one .reset
  | _ => exact absurd rfl h

theorem offerByte_answers {s : State} (h : assignedSt s.dec.st = true) (b : Byte) : ∃ t, offerByte b s = .next t := by
  by_cases hd : s.dec.st = .done
  · exact ⟨_, offerByte_done hd b⟩
  · exact ⟨_, offerByte_running h hd b⟩

theorem applyInput_answers {s : State} (h : Inv s) (x : Input) : ∃ t, applyInput x s = .next t := by
  cases x with
  | decByte b => exact offerByte_answers h.dec.assigned b
  | _ => exact ⟨_, rfl⟩

theorem runInputs_answers {s : State} (h : Inv s) (xs : List Input) : ∃ t, runInputs xs s = .next t := by
  induction xs generalizing s with
  | nil => exact ⟨s, rfl⟩
  | cons x xs ih =>
    obtain ⟨u, hu⟩ := applyInput_answers h x
    obtain ⟨t, ht⟩ := ih (applyInput_inv h hu)
    exact ⟨t, andThen_eq_next.mpr ⟨u, hu, ht⟩⟩

/-- Under the invariant every operation answers a next state, a decoder-state row where `dec.st` selects it (R94, R114). -/
theorem exec_answers {i : Instr} {s : State} (h : Inv s) (hrow : ∀ st b, i = decRow st b → s.dec.st = st) :
    ∃ t, exec i s = .next t := by
  by_cases hl : leadOf i = leadDecByte
  · obtain ⟨st, b, rfl⟩ := exists_decRow_of_leadOf hl
    rw [exec_decRow, whenSelected_here (hrow st b rfl)]
    exact offerByte_answers h.dec.assigned b
  · obtain ⟨xs, hxs⟩ := exec_eq_runInputs hl s
    rw [hxs]
    exact runInputs_answers h xs

/-! ### Takes (R78) -/

theorem encAdvance_body (e : EncRegs) : (encAdvance e).body = e.body := by
  unfold encAdvance
  split_ifs <;> rfl

/-- Each take brings the end of the frame one byte nearer. -/
theorem takesLeft_encAdvance {e : EncRegs} (h : e.st = .emit) : takesLeft (encAdvance e) + 1 = takesLeft e := by
  unfold encAdvance
  split_ifs <;> simp only [takesLeft, h] <;> omega

theorem takesLeft_emit {e : EncRegs} (h : e.st = .emit) : takesLeft e = e.body.length + 1 - e.idx + 1 := by
  rw [takesLeft, h]

theorem takes_idle {s : State} (h : s.enc.st = .idle) (n : Nat) : offerTake^[n] s = s :=
  Function.iterate_fixed (offerTake_idle h) n

/-- Takes write the encoder's registers but the body, and present as many bytes as are left. -/
theorem takes_present (n : Nat) (s : State) : ∃ (enc : EncRegs) (out : Bytes),
    offerTake^[n] s = { s with enc := enc, trace := s.trace ++ out.map Output.byte } ∧ enc.body = s.enc.body ∧
      out.length = min n (takesLeft s.enc) := by
  induction n generalizing s with
  | zero => exact ⟨s.enc, [], by simp⟩
  | succ n ih =>
    cases hs : s.enc.st with
    | idle => exact ⟨s.enc, [], by simp [takes_idle hs, takesLeft, hs]⟩
    | emit =>
      obtain ⟨enc, out, ht, hbody, hlen⟩ := ih (offerTake s)
      rw [offerTake_emit hs] at ht hbody hlen
      refine ⟨enc, encPresented s.enc :: out, ?_, hbody.trans (encAdvance_body s.enc), ?_⟩
      · rw [Function.iterate_succ_apply, offerTake_emit hs, ht]
        simp
      · have hleft := takesLeft_encAdvance hs
        simp only [List.length_cons, hlen]
        omega

/-- The frame that goes out: the body, its checksum and the terminator (R48, R74, R78). -/
def outgoingFrame (e : EncRegs) : Bytes := e.body ++ [byteSum e.body, Config.terminator]

@[simp] theorem outgoingFrame_length (e : EncRegs) : (outgoingFrame e).length = e.body.length + 2 := by
  simp [outgoingFrame]

/-- While a frame goes out, a take presents the first of the bytes that are left of it (R78, R86). -/
theorem drop_outgoingFrame {e : EncRegs} (h : EncInv e) (he : e.st = .emit) :
    (outgoingFrame e).drop e.idx = encPresented e :: (outgoingFrame e).drop (e.idx + 1) := by
  obtain ⟨_, hidx, hsum, _⟩ := h.emit he
  rw [List.drop_eq_getElem_cons (by rw [outgoingFrame_length]; omega), List.cons.injEq]
  refine ⟨?_, rfl⟩
  unfold encPresented
  split_ifs with hlt heq
  · simp [outgoingFrame, List.getElem_append_left hlt, hlt]
  · rw [heq, List.take_length] at hsum
    simp [outgoingFrame, heq, hsum]
  · have hlast : e.idx = e.body.length + 1 := by omega
    simp [outgoingFrame, hlast]

/-- A take before the terminator moves on by one byte and keeps the sum of the body bytes presented (R78, R86). -/
theorem encAdvance_of_le {e : EncRegs} (h : EncInv e) (he : e.st = .emit) (hle : e.idx ≤ e.body.length) :
    encAdvance e = { e with idx := e.idx + 1, csum := byteSum (e.body.take (e.idx + 1)) } := by
  obtain ⟨_, _, hsum, _⟩ := h.emit he
  unfold encAdvance
  split_ifs with hlt heq
  · rw [byteSum_take_succ hlt, hsum]
  · rw [heq, List.take_length] at hsum
    rw [heq, List.take_of_length_le (Nat.le_succ _), ← hsum]
  · omega

/-- A take before the terminator, over the whole state. -/
theorem offerTake_of_le {s : State} (h : EncInv s.enc) (hs : s.enc.st = .emit) (hle : s.enc.idx ≤ s.enc.body.length) :
    offerTake s = { s with
      enc := { s.enc with idx := s.enc.idx + 1, csum := byteSum (s.enc.body.take (s.enc.idx + 1)) },
      trace := s.trace ++ [.byte (encPresented s.enc)] } := by
  rw [offerTake_emit hs, encAdvance_of_le h hs hle]

/-- The take of the terminator ends the frame (R78). -/
theorem encAdvance_of_eq {e : EncRegs} (h : e.idx = e.body.length + 1) :
    encAdvance e = { e with idx := 0, st := .idle, status := .sent } := by
  unfold encAdvance
  rw [if_neg (by omega), if_neg (by omega)]

/-- Takes that do not reach the terminator present the next bytes of the frame. -/
theorem takes_within_frame {n : Nat} {s : State} (h : EncInv s.enc) (hs : s.enc.st = .emit)
    (hn : s.enc.idx + n ≤ s.enc.body.length + 1) :
    offerTake^[n] s = { s with
      enc := { s.enc with idx := s.enc.idx + n, csum := byteSum (s.enc.body.take (s.enc.idx + n)) },
      trace := s.trace ++ (((outgoingFrame s.enc).drop s.enc.idx).take n).map Output.byte } := by
  induction n generalizing s with
  | zero =>
    obtain ⟨_, _, hsum, _⟩ := h.emit hs
    simp [← hsum]
  | succ n ih =>
    have hone := offerTake_of_le h hs (by omega)
    have htake := ih (offerTake_encInv h) (by rw [hone]; exact hs) (by rw [hone]; simp only; omega)
    rw [Function.iterate_succ_apply, htake, hone, drop_outgoingFrame h hs]
    simp [outgoingFrame, Nat.add_comm 1 n, Nat.add_assoc]

/-- The takes that are left present the rest of the frame and end it with `SENT`. -/
theorem takes_whole_frame {s : State} (h : EncInv s.enc) (hs : s.enc.st = .emit) :
    offerTake^[takesLeft s.enc] s = { s with
      enc := { s.enc with st := .idle, idx := 0, csum := byteSum s.enc.body, status := .sent },
      trace := s.trace ++ ((outgoingFrame s.enc).drop s.enc.idx).map Output.byte } := by
  induction hn : takesLeft s.enc generalizing s with
  | zero => rw [takesLeft_emit hs] at hn; cases hn
  | succ n ih =>
    obtain ⟨_, hidx, hsum, _⟩ := h.emit hs
    rw [takesLeft_emit hs] at hn
    rw [Function.iterate_succ_apply, drop_outgoingFrame h hs]
    by_cases hend : s.enc.idx = s.enc.body.length + 1
    · have hn0 : n = 0 := by omega
      rw [hend, List.take_of_length_le (Nat.le_succ _)] at hsum
      simp [hn0, offerTake_emit hs, encAdvance_of_eq hend, hend, ← hsum, outgoingFrame]
    · have hone := offerTake_of_le h hs (by omega)
      have hemit : (offerTake s).enc.st = .emit := by rw [hone]; exact hs
      rw [ih (offerTake_encInv h) hemit (by rw [takesLeft_emit hemit, hone]; simp only; omega), hone]
      simp [outgoingFrame]

/-- From a frame under way n takes present its next n bytes, and `Idle` is reached with the terminator (R78). -/
theorem takes_frame_trace {s : State} (h : EncInv s.enc) (hs : s.enc.st = .emit) (n : Nat) :
    (offerTake^[n] s).trace = s.trace ++ (((outgoingFrame s.enc).drop s.enc.idx).take n).map Output.byte ∧
    ((offerTake^[n] s).enc.st = .idle ↔ s.enc.body.length + 2 ≤ s.enc.idx + n) := by
  obtain ⟨_, hidx, _, _⟩ := h.emit hs
  rcases Nat.lt_or_ge n (takesLeft s.enc) with hn | hn
  · rw [takesLeft_emit hs] at hn
    rw [takes_within_frame h hs (by omega)]
    exact ⟨rfl, by simp only [hs, reduceCtorEq, false_iff]; omega⟩
  · have htotal := takesLeft_emit hs
    obtain ⟨m, rfl⟩ := Nat.exists_eq_add_of_le' hn
    rw [Function.iterate_add_apply, takes_whole_frame h hs, takes_idle rfl,
      List.take_of_length_le (by rw [List.length_drop, outgoingFrame_length]; omega)]
    exact ⟨rfl, by simp only [true_iff]; omega⟩

/-! ### Bytes fed to the decoder (R66, R93, R94) -/

theorem offerBytes_singleton (b : Byte) (s : State) : offerBytes [b] s = offerByte b s :=
  runInputs_singleton (.decByte b) s

/-- Bytes offered in `Done` are held, in order (R93). -/
theorem offerBytes_done {s : State} (h : s.dec.st = .done) (bs : Bytes) :
    offerBytes bs s = .next { s with heldBytes := s.heldBytes ++ bs } := by
  induction bs generalizing s with
  | nil => simp
  | cons b bs ih =>
    rw [offerBytes_cons, offerByte_done h, andThen_next, ih (s := holdByte b s) h]
    simp [holdByte]

/-- Bytes offered to a running decoder: those up to the first terminal condition run its rules, the rest are held. -/
theorem offerBytes_splits {s : State} (h : assignedSt s.dec.st = true) (bs : Bytes) :
    ∃ k, k ≤ bs.length ∧
      offerBytes bs s = .next { s with
        dec := (decRun Config.pKeep (bs.take k) s.dec).1,
        trace := s.trace ++ (decRun Config.pKeep (bs.take k) s.dec).2.map Output.event,
        heldBytes := s.heldBytes ++ bs.drop k } ∧
      (∀ j, j < k → (decRun Config.pKeep (bs.take j) s.dec).1.st ≠ .done) ∧
      (k < bs.length → (decRun Config.pKeep (bs.take k) s.dec).1.st = .done) := by
  induction bs generalizing s with
  | nil => exact ⟨0, Nat.le_refl 0, by simp, nofun, nofun⟩
  | cons b bs ih =>
    by_cases hd : s.dec.st = .done
    · exact ⟨0, Nat.zero_le _, by simp [offerBytes_done hd], nofun, fun _ => hd⟩
    · obtain ⟨k, hk, hrun, hbefore, hrest⟩ :=
        ih (s := landDec (decByteWith Config.pKeep b s.dec) s) (decByteWith_assigned h _ b)
      refine ⟨k + 1, Nat.succ_le_succ hk, ?_, fun j hj => ?_, fun hlt => hrest (Nat.lt_of_succ_lt_succ hlt)⟩
      · rw [offerBytes_cons, offerByte_running h hd, andThen_next, hrun]
        simp [landDec, Option.toList_map]
      · cases j with
        | zero => exact hd
        | succ j => exact hbefore j (Nat.lt_of_succ_lt_succ hj)

/-- What bytes offered to a running decoder do to its registers and the trace; the encoder does not move. -/
theorem offerBytes_decRun {s : State} (h : assignedSt s.dec.st = true) (bs : Bytes) :
    ∃ t, offerBytes bs s = .next t ∧ t.enc = s.enc ∧ t.dec = (decRun Config.pKeep bs s.dec).1 ∧
      t.trace = s.trace ++ (decRun Config.pKeep bs s.dec).2.map Output.event := by
  obtain ⟨k, hk, hrun, _, hrest⟩ := offerBytes_splits h bs
  have hall : decRun Config.pKeep bs s.dec = decRun Config.pKeep (bs.take k) s.dec := by
    rcases Nat.lt_or_eq_of_le hk with hlt | rfl
    · conv_lhs => rw [← List.take_append_drop k bs, decRun_append, decRun_done (hrest hlt)]
      simp
    · rw [List.take_length]
  exact ⟨_, hrun, rfl, by rw [hall], by rw [hall]⟩

/-! ### A result frame at the decoder (R58, R98, R101 to R105) -/

/-- The first eight bytes of a frame lead from an empty window to `ReadLength` with its packet type (R95 to R97). -/
theorem decRun_frameHead {d : DecRegs} (hs : d.st = .syncHeader) (hw : d.win = []) (t : Byte) :
    decRun Config.pKeep (Config.header ++ [Config.version, t]) d = ({ d with ptype := t, st := .readLength }, []) := by
  simp [Config.header, decByteWith, hs, hw, ruleSyncHeader, slideWindow, Config.pKeep, lastN, Config.windowLen,
    ruleReadVersion, ruleReadType]

/-- Every outcome of `finish_record` sets `dec.st` (R105). -/
theorem finishRecord_with_st (d : DecRegs) (st : DecSt) : finishRecord { d with st := st } = finishRecord d := rfl

theorem ruleReadRpcStrData_of_eq {d : DecRegs} (h : d.cur.length + 1 = d.slen.toNat) (b : Byte) :
    ruleReadRpcStrData b d = finishRecord { d with cur := d.cur ++ [b], dlen := d.dlen - 1 } :=
  if_pos (by simpa [recordComplete] using h)

theorem ruleReadRpcStrData_of_ne {d : DecRegs} (h : d.cur.length + 1 ≠ d.slen.toNat) (b : Byte) :
    ruleReadRpcStrData b d = ({ d with cur := d.cur ++ [b], dlen := d.dlen - 1 }, none) :=
  if_neg (by simpa [recordComplete] using h)

/-- The bytes of a record after its length byte, one by one (R104). -/
theorem decRun_readRpcStrData (keep : Byte → Bool) {d : DecRegs} (hs : d.st = .readRpcStrData) {bs : Bytes}
    (hne : bs ≠ []) (hlen : d.cur.length + bs.length = d.slen.toNat) :
    decRun keep bs d =
      ((finishRecord { d with cur := d.cur ++ bs, dlen := d.dlen - bs.length }).1,
        (finishRecord { d with cur := d.cur ++ bs, dlen := d.dlen - bs.length }).2.toList) := by
  induction bs generalizing d with
  | nil => contradiction
  | cons b bs ih =>
    have hrule : decByteWith keep b d = ruleReadRpcStrData b d := by simp only [decByteWith, hs]
    rw [List.length_cons] at hlen
    rw [decRun_cons, hrule]
    by_cases hbs : bs = []
    · subst hbs
      simp [ruleReadRpcStrData_of_eq hlen]
    · have hpos := List.length_pos_of_ne_nil hbs
      have hrest := ih (d := { d with cur := d.cur ++ [b], dlen := d.dlen - 1 }) hs hbs (by simp; omega)
      rw [ruleReadRpcStrData_of_ne (by omega), hrest]
      simp [sub_sub, add_comm]

/-- One record, its length byte and its bytes, empty or not (R103, R104). -/
theorem decRun_record (keep : Byte → Bool) {d : DecRegs} (hs : d.st = .readRpcStrLen) {r : Bytes} (hr : r.length ≤ 255) :
    decRun keep (BitVec.ofNat 8 r.length :: r) d =
      let f := finishRecord { d with slen := BitVec.ofNat 8 r.length, cur := r, dlen := d.dlen - (1 + r.length) }
      (f.1, f.2.toList) := by
  have hrule : decByteWith keep (BitVec.ofNat 8 r.length) d = ruleReadRpcStrLen (BitVec.ofNat 8 r.length) d := by
    simp only [decByteWith, hs]
  rw [decRun_cons, hrule, ruleReadRpcStrLen]
  by_cases hnil : r = []
  · subst hnil
    simp
  · have hlen : ([] : Bytes).length + r.length = (BitVec.ofNat 8 r.length).toNat := by
      rw [toNat_ofNat_of_le hr, List.length_nil, Nat.zero_add]
    rw [if_neg (ofNat_ne_zero (List.length_pos_of_ne_nil hnil) hr), decRun_readRpcStrData keep rfl hnil hlen]
    simp [sub_sub, ← finishRecord_with_st _ .readRpcStrData]

theorem costSum_pos {records : List Bytes} (h : records ≠ []) : 0 < costSum records := by
  obtain ⟨r, hr⟩ := List.exists_mem_of_ne_nil records h
  exact Nat.zero_lt_of_lt (length_lt_costSum hr)

/-- The registers after the last record of a row `row`, whose length byte was `slen` (R105). -/
def afterRow (slen : Byte) (row : List Bytes) (d : DecRegs) : DecRegs :=
  if d.rcmd = Config.cmdScanWifi then { d with dlen := 0, slen := slen, cur := [], fields := [], st := .syncHeader }
  else { d with dlen := 0, slen := slen, cur := [], fields := row, st := .done, reason := .rpcDone }

/-- The records of a row, whose cost is what `data_length` says (R58, R102 to R105): one event, and the row ends. -/
theorem decRun_recordBytes (keep : Byte → Bool) {d : DecRegs} (hs : d.st = .readRpcStrLen) {records : List Bytes}
    (hne : records ≠ []) (hlen : ∀ r ∈ records, r.length ≤ 255) (hd : d.dlen = costSum records) :
    ∃ slen, decRun keep (recordBytes records) d =
      (afterRow slen (d.fields ++ records) d, [.rpcResult d.rcmd (d.fields ++ records)]) := by
  induction records generalizing d with
  | nil => contradiction
  | cons r rs ih =>
    obtain ⟨hr, hrs⟩ := List.forall_mem_cons.mp hlen
    have hrest : d.dlen - (1 + r.length) = costSum rs := by rw [hd, costSum_cons]; push_cast; ring
    have hsplit : recordBytes (r :: rs) = (BitVec.ofNat 8 r.length :: r) ++ recordBytes rs := by simp
    rw [hsplit, decRun_append, decRun_record keep hs hr, hrest]
    by_cases hnil : rs = []
    · subst hnil
      refine ⟨BitVec.ofNat 8 r.length, ?_⟩
      by_cases hc : d.rcmd = Config.cmdScanWifi
      · simp [finishRecord, rowComplete, afterRow, hc]
      · simp [finishRecord, rowComplete, afterRow, hc, terminate]
    · have hmore : ¬ (costSum rs : Int) ≤ 0 := by
        have := costSum_pos hnil
        omega
      simp only [finishRecord, rowComplete, decide_eq_true_eq, if_neg hmore]
      obtain ⟨slen, hrun⟩ := ih (d := { d with
        slen := BitVec.ofNat 8 r.length, dlen := costSum rs, cur := [], fields := d.fields ++ [r],
        st := .readRpcStrLen }) rfl hnil hrs rfl
      refine ⟨slen, ?_⟩
      rw [hrun]
      simp [afterRow]

/-- The first eleven bytes of a result frame, up to `data_length` (R48, R58). -/
def resultHead (c : Byte) (cost : Nat) : Bytes :=
  Config.header ++ [Config.version, Config.typeRpcResult] ++ [BitVec.ofNat 8 (2 + cost), c, BitVec.ofNat 8 cost]

/-- The registers before the first record of a row under id `c` whose records cost `cost` bytes (R98, R101, R102). -/
def beforeRow (c : Byte) (cost : Nat) (d : DecRegs) : DecRegs :=
  { d with
    ptype := Config.typeRpcResult, flen := BitVec.ofNat 8 (2 + cost), fields := [], cur := [], rcmd := c, dlen := cost,
    st := .readRpcStrLen }

theorem wireFrame_result (c : Byte) (records : List Bytes) (csum term : Byte) :
    wireFrame Config.typeRpcResult (rpcPayload c records) csum term =
      resultHead c (costSum records) ++ (recordBytes records ++ [csum, term]) := by
  simp only [wireFrame, frameBody, rpcPayload_length]
  simp [resultHead, rpcPayload]

/-- A nonzero length of a result leads to its command id, with no row under way (R98). -/
theorem decByteWith_readLength_result (keep : Byte → Bool) {d : DecRegs} (hs : d.st = .readLength)
    (ht : d.ptype = Config.typeRpcResult) {len : Byte} (hlen : len ≠ 0) :
    decByteWith keep len d = ({ d with flen := len, fields := [], cur := [], st := .readRpcResponseCmd }, none) := by
  simp only [decByteWith, hs, ruleReadLength, lengthIsZero, decide_eq_true_eq, if_neg hlen, if_pos ht]

/-- The head of a result leads to the end of an empty one, and of any other to its first record (R95 to R98, R101, R102). -/
theorem decRun_resultHead {d : DecRegs} (hs : d.st = .syncHeader) (hw : d.win = []) (c : Byte) {cost : Nat}
    (hcost : cost ≤ 253) :
    decRun Config.pKeep (resultHead c cost) d =
      if cost = 0 then (terminate .rpcEmpty (beforeRow c 0 d), []) else (beforeRow c cost d, []) := by
  rw [resultHead, decRun_append, decRun_frameHead hs hw, decRun_cons,
    decByteWith_readLength_result _ rfl rfl (ofNat_ne_zero (by omega) (by omega))]
  by_cases h0 : cost = 0
  · subst h0
    rfl
  · have hd : (BitVec.ofNat 8 cost).toNat = cost := toNat_ofNat_of_le (by omega)
    simp only [decRun_cons, decByteWith, ruleReadRpcResponseCmd, ruleReadRpcDataLen, hd, if_neg h0,
      if_neg (ofNat_ne_zero (Nat.pos_of_ne_zero h0) (by omega))]
    rfl

/-- Too few bytes to complete the header after what the window holds leave the decoder in `SyncHeader` (R95). -/
theorem decRun_noise (keep : Byte → Bool) {d : DecRegs} (hs : d.st = .syncHeader) {bs : Bytes}
    (hlen : d.win.length + bs.length < Config.windowLen) : ∃ win, decRun keep bs d = ({ d with win := win }, []) := by
  induction bs generalizing d with
  | nil => exact ⟨d.win, rfl⟩
  | cons b bs ih =>
    simp only [List.length_cons] at hlen
    have hle := (slideWindow_suffix keep b d.win).length_le
    simp only [List.length_append, List.length_cons, List.length_nil] at hle
    have hne : slideWindow keep b d.win ≠ Config.header := fun he => by
      rw [he] at hle
      simp only [Config.header, Config.windowLen, List.length_cons, List.length_nil] at hle hlen
      omega
    have hstep : decByteWith keep b d = ({ d with win := slideWindow keep b d.win }, none) := by
      simp only [decByteWith, hs, ruleSyncHeader, if_neg hne]
    obtain ⟨win, hrun⟩ := ih (d := { d with win := slideWindow keep b d.win }) hs (by simp only; omega)
    exact ⟨win, by rw [decRun_cons, hstep, hrun]; rfl⟩

/-- The checksum and the terminator after a row are not taken in `Done` and are noise in `SyncHeader` (R62, R93). -/
theorem decRun_afterRow (keep : Byte → Bool) (slen : Byte) (row : List Bytes) {d : DecRegs} (hw : d.win = [])
    (csum term : Byte) :
    ∃ win, decRun keep [csum, term] (afterRow slen row d) = ({ afterRow slen row d with win := win }, []) := by
  unfold afterRow
  split_ifs
  · exact decRun_noise keep rfl (by simp [hw, Config.windowLen])
  · exact ⟨d.win, decRun_done rfl keep _⟩

/-- A well-formed result without records ends the run with no event (R102). -/
theorem decRun_emptyResultFrame {d : DecRegs} (hs : d.st = .syncHeader) (hw : d.win = []) (c csum term : Byte) :
    decRun Config.pKeep (wireFrame Config.typeRpcResult (rpcPayload c []) csum term) d =
      (terminate .rpcEmpty (beforeRow c 0 d), []) := by
  rw [wireFrame_result, decRun_append, costSum_nil, decRun_resultHead hs hw c (Nat.zero_le _)]
  rfl

/-- A well-formed result with records emits them in one event, and `ScanWifi`'s alone leaves the decoder running (R105). -/
theorem decRun_resultFrame {d : DecRegs} (hs : d.st = .syncHeader) (hw : d.win = []) (c : Byte) {records : List Bytes}
    (hne : records ≠ []) (hcost : costSum records ≤ 253) (csum term : Byte) :
    ∃ slen win, decRun Config.pKeep (wireFrame Config.typeRpcResult (rpcPayload c records) csum term) d =
      ({ afterRow slen records (beforeRow c (costSum records) d) with win := win }, [.rpcResult c records]) := by
  have hlen (r) (hr : r ∈ records) : r.length ≤ 255 := by
    have := length_lt_costSum hr; omega
  obtain ⟨slen, hrow⟩ := decRun_recordBytes Config.pKeep (d := beforeRow c (costSum records) d) rfl hne hlen rfl
  obtain ⟨win, htail⟩ := decRun_afterRow Config.pKeep slen records (d := beforeRow c (costSum records) d) hw csum term
  refine ⟨slen, win, ?_⟩
  rw [wireFrame_result, decRun_append, decRun_resultHead hs hw c hcost, if_neg (costSum_pos hne).ne', decRun_append, hrow]
  simp only [beforeRow, List.nil_append] at htail ⊢
  rw [htail]
  rfl

/-- A result row offered to a decoder with an empty window (R58, R61, R105). -/
theorem offerResult_answers {s : State} (hs : s.dec.st = .syncHeader) (hw : s.dec.win = []) (c : Byte)
    {records : List Bytes} (hcost : costSum records ≤ 253) :
    ∃ t, offerResult c records s = .next t ∧ t.enc = s.enc ∧ t.dec.rcmd = c ∧
      t.trace = (if records = [] then s.trace else s.trace ++ [.event (.rpcResult c records)]) ∧
      t.dec.st = (if records ≠ [] ∧ c = Config.cmdScanWifi then .syncHeader else .done) ∧
      t.dec.reason = (if records = [] then .rpcEmpty else if c = Config.cmdScanWifi then s.dec.reason else .rpcDone) := by
  obtain ⟨t, ht, henc, hdec, htrace⟩ := offerBytes_decRun (by rw [hs]; rfl)
    (cleanFrame Config.typeRpcResult (rpcPayload c records))
  refine ⟨t, ht, henc, ?_⟩
  rw [cleanFrame] at hdec htrace
  by_cases hnil : records = []
  · subst hnil
    rw [decRun_emptyResultFrame hs hw] at hdec htrace
    rw [hdec, htrace]
    simp [beforeRow]
  · obtain ⟨slen, win, hrun⟩ := decRun_resultFrame hs hw c hnil hcost
      (byteSum (frameBody Config.typeRpcResult (rpcPayload c records))) Config.terminator
    rw [hrun] at hdec htrace
    rw [hdec, htrace]
    by_cases hc : c = Config.cmdScanWifi <;> simp [hnil, afterRow, beforeRow, hc]

/-! ### The statements -/

/-- Settles O4: what is queued is fetched as the encoding, and that decodes to the instruction. -/
theorem queuedInstructionIsExecuted : Obligations.QueuedInstructionIsExecuted := by
  intro i s rest hwf hscript hrow
  apply step_of_decode
  rw [fetchBytes_queueBytes hscript hrow]
  exact decode_eq_ok.mpr ⟨decodeRaw_encode hwf rest, hwf⟩

/-- Settles O54: a decoder-state row that is fetched is the row of `dec.st`, and under the invariant every operation answers. -/
theorem invStepNeverFaults : Obligations.InvStepNeverFaults := by
  intro s hs
  unfold step
  split
  · exact ⟨nofun, nofun⟩
  · split
    · next i rest hdec =>
      have hinv : Inv { s with script := rest } := ⟨hs.enc, hs.dec, hs.held⟩
      obtain ⟨t, ht⟩ := exec_answers hinv (i := i) fun st b hi =>
        dec_st_of_decode_fetchBytes (s := s) (hi ▸ hdec)
      rw [ht]
      exact ⟨nofun, nofun⟩
    · exact ⟨nofun, nofun⟩

/-- Settles O13: `TAKE n` is the take n times over. -/
theorem takeManyPresentsFrameInOrder : Obligations.TakeManyPresentsFrameInOrder := by
  refine ⟨fun s n => ?_, fun s n hs h => ?_⟩
  · obtain ⟨enc, out, ht, hbody, hlen⟩ := takes_present n s
    exact ⟨_, out, runInputs_takes n s, by simp [ht, hbody, hlen]⟩
  · exact ⟨_, runInputs_takes n s, takes_frame_trace h hs n⟩

/-- Settles O14: `DRAIN` is the takes that are left. -/
theorem drainPresentsRestOfFrame : Obligations.DrainPresentsRestOfFrame := by
  intro s hs h
  exact (runInputs_takes _ s).trans (congrArg _ (takes_whole_frame h hs))

/-- Settles O35: the split of the bytes at the first terminal condition. -/
theorem feedTakesBytesUpToDone : Obligations.FeedTakesBytesUpToDone := by
  intro s bs h
  obtain ⟨k, hk, hrun, hbefore, hrest⟩ := offerBytes_splits h bs
  exact ⟨k, _, hrun, hk, rfl, rfl, rfl, rfl, rfl, rfl, hbefore, hrest⟩

/-- Settles O41: every request form is the `enc_req` that `ENC` offers, and every result form the same frame under its id. -/
theorem commandIdRowsAreRequestsOrResults : Obligations.CommandIdRowsAreRequestsOrResults := by
  refine ⟨fun s cmd args ssid password p hp => ?_, fun s cmd records hs hw hcost p hp => ?_⟩
  · simp only [List.mem_cons, List.not_mem_nil, or_false] at hp
    rcases hp with rfl | rfl | rfl | rfl | rfl <;> exact ⟨_, rfl, rfl⟩
  · have hrow : exec p.2 s = offerResult p.1 records s := by
      simp only [List.mem_cons, List.not_mem_nil, or_false] at hp
      rcases hp with rfl | rfl | rfl | rfl | rfl <;> rfl
    rw [hrow]
    exact offerResult_answers hs hw p.1 hcost

/-- Settles O5, each word read by the decoder. -/
theorem writtenWordsDecode : Obligations.WrittenWordsDecode := by
  unfold Obligations.WrittenWordsDecode
  decide

/-- Settles O34: one byte is the row of `dec.st` by what a row does where it is selected, more bytes are a sequence. -/
theorem feedRunsSelectedRow : Obligations.FeedRunsSelectedRow := by
  refine ⟨fun s b => ?_, fun s b bs => ?_, fun s => rfl⟩
  · rw [exec_decRow, whenSelected_here rfl]
    exact offerBytes_singleton b s
  · exact offerBytes_append [b] bs s

/-- Settles O36: the bytes of each row's frame are those of R48. -/
theorem frameRowsFeedWireBytes : Obligations.FrameRowsFeedWireBytes := by
  intro s ptype payload csum term
  exact ⟨rfl, rfl, rfl, rfl, rfl⟩

end Sys2Proof.Machine
end

section
/-! PROOFS, family 40_encoder.md, first part: the parts of a frame with its checksum (R48, R74, R89), what `parse_command` reads
off it (R88), and what a request does to the encoder (R76, R77). -/

namespace Sys2Proof.Machine

/-! ### The parts of a clean frame (R48) -/

/-- The nine bytes before the payload, one by one. -/
theorem frameBody_eq (t : Byte) (payload : Bytes) :
    frameBody t payload =
      [0x49, 0x4D, 0x50, 0x52, 0x4F, 0x56, 0x01, t, BitVec.ofNat 8 payload.length] ++ payload := rfl

@[simp] theorem cleanFrame_length (t : Byte) (payload : Bytes) : (cleanFrame t payload).length = 11 + payload.length :=
  wireFrame_length ..

theorem cleanFrame_take_body (t : Byte) (payload : Bytes) :
    (cleanFrame t payload).take (9 + payload.length) = frameBody t payload := by
  rw [← frameBody_length t, cleanFrame, wireFrame, List.take_left]

theorem cleanFrame_take_header (t : Byte) (payload : Bytes) : (cleanFrame t payload).take 6 = Config.header := rfl

theorem cleanFrame_payload (t : Byte) (payload : Bytes) :
    ((cleanFrame t payload).drop 9).take payload.length = payload :=
  List.take_left

theorem cleanFrame_getElem?_version (t : Byte) (payload : Bytes) : (cleanFrame t payload)[6]? = some Config.version := rfl

theorem cleanFrame_getElem?_type (t : Byte) (payload : Bytes) : (cleanFrame t payload)[7]? = some t := rfl

theorem cleanFrame_getElem?_length (t : Byte) (payload : Bytes) :
    (cleanFrame t payload)[8]? = some (BitVec.ofNat 8 payload.length) := rfl

theorem cleanFrame_getElem?_checksum (t : Byte) (payload : Bytes) :
    (cleanFrame t payload)[9 + payload.length]? = some (byteSum (frameBody t payload)) := by
  simp [cleanFrame, wireFrame]

theorem cleanFrame_getElem?_terminator (t : Byte) (payload : Bytes) :
    (cleanFrame t payload)[10 + payload.length]? = some Config.terminator := by
  have hidx : 10 + payload.length = (frameBody t payload).length + 1 := by rw [frameBody_length]; omega
  rw [cleanFrame, wireFrame, hidx, List.getElem?_append_right (Nat.le_add_right _ 1), Nat.add_sub_cancel_left]
  rfl

/-! ### The frame of a request (R72 to R75) -/

/-- A valid request's frame is the clean frame of its payload, and no other request has one (R70, R75). -/
theorem buildCommand_eq_some {cmd : Byte} {args : List Bytes} {f : Bytes} :
    buildCommand cmd args = some f ↔
      invalidArgs args = false ∧ cleanFrame Config.typeRpcCommand (rpcPayload cmd args) = f := by
  cases hv : invalidArgs args with
  | true => simp [buildCommand, hv]
  | false => simp [buildCommand, hv, cleanFrame, wireFrame, requestBody]

theorem buildCommand_eq_none {cmd : Byte} {args : List Bytes} : buildCommand cmd args = none ↔ invalidArgs args = true := by
  simp [buildCommand]

/-- The body with the length byte and `data_length` that R72 and R73 give it. -/
theorem requestBody_eq (cmd : Byte) (args : List Bytes) :
    requestBody cmd args =
      [0x49, 0x4D, 0x50, 0x52, 0x4F, 0x56, 0x01, 0x03, BitVec.ofNat 8 (2 + costSum args), cmd,
        BitVec.ofNat 8 (costSum args)] ++ recordBytes args := by
  rw [requestBody, frameBody_eq, rpcPayload_length]
  rfl

/-- No argument of a valid request is longer than 252 bytes (R70). -/
theorem length_le_of_valid {args : List Bytes} (h : invalidArgs args = false) {a : Bytes} (ha : a ∈ args) :
    a.length ≤ 252 := by
  have hcost := (validArgs_iff args).mp h
  have hlt := length_lt_costSum ha
  omega

/-- R70's two conditions, as `invalidArgs` tests them. -/
theorem invalidArgs_iff_or (args : List Bytes) :
    invalidArgs args = true ↔ (∃ a ∈ args, 255 < a.length) ∨ 255 < 2 + costSum args := by
  simp only [invalidArgs, Bool.or_eq_true, List.any_eq_true, decide_eq_true_eq]
  rfl

/-- R74's closed form: the nine bytes before the payload of an RpcCommand sum to 225 + L modulo 256. -/
theorem toNat_byteSum_requestFrame (payload : Bytes) :
    (byteSum (frameBody Config.typeRpcCommand payload)).toNat = (225 + payload.length + sumNat payload) % 256 := by
  simp only [byteSum, frameBody_eq, sumNat_append, sumNat_cons, sumNat_nil, BitVec.toNat_ofNat, Config.typeRpcCommand,
    BitVec.reduceToNat]
  omega

/-! ### `parse_command` (R88) -/

/-- The loop reads the arguments back where each length fits its byte and there is fuel for each. -/
theorem parseArgs_recordBytes {args : List Bytes} (h : ∀ a ∈ args, a.length ≤ 255) {fuel : Nat}
    (hfuel : args.length ≤ fuel) : parseArgs fuel (recordBytes args) = some args := by
  induction args generalizing fuel with
  | nil => cases fuel <;> rfl
  | cons a as ih =>
    obtain ⟨ha, has⟩ := List.forall_mem_cons.mp h
    cases fuel with
    | zero => cases hfuel
    | succ fuel =>
      have hrest := ih has (Nat.le_of_succ_le_succ hfuel)
      simp [parseArgs, -BitVec.toNat_ofNat, toNat_ofNat_of_le ha, hrest]

/-- `parse_command` accepts the clean frame of an RpcCommand and reads its payload. -/
theorem parseCommand_cleanFrame {cmd d : Byte} {rest : Bytes} (h : d.toNat = rest.length) (hfits : rest.length ≤ 253) :
    parseCommand (cleanFrame Config.typeRpcCommand (cmd :: d :: rest)) =
      (parseArgs rest.length rest).map (fun args => (cmd, args)) := by
  generalize hp : cmd :: d :: rest = p
  have hlen : p.length = rest.length + 2 := by rw [← hp]; rfl
  have hl : (BitVec.ofNat 8 p.length).toNat = p.length := toNat_ofNat_of_le (by omega)
  have hmin : 13 ≤ 11 + p.length := by omega
  simp only [parseCommand, List.getD_eq_getElem?_getD, cleanFrame_length, cleanFrame_take_header,
    cleanFrame_getElem?_version, cleanFrame_getElem?_type, cleanFrame_getElem?_length, Option.getD_some, hl,
    cleanFrame_getElem?_checksum, cleanFrame_getElem?_terminator, cleanFrame_take_body, cleanFrame_payload, hmin,
    and_self, if_true]
  subst hp
  simp [h]

/-- Settles O20: the frame's payload is `cmd`, `data_length` and the records, and the loop reads the records back. -/
theorem parseCommandInvertsBuildCommand : Obligations.ParseCommandInvertsBuildCommand := by
  intro cmd args f hf
  obtain ⟨hv, rfl⟩ := buildCommand_eq_some.mp hf
  have hcost := (validArgs_iff args).mp hv
  have hd : (BitVec.ofNat 8 (costSum args)).toNat = (recordBytes args).length := by
    rw [recordBytes_length, toNat_ofNat_of_le (by omega)]
  have hfuel : args.length ≤ (recordBytes args).length := by
    rw [recordBytes_length, costSum_eq_lengthSum]; omega
  have hargs : ∀ a ∈ args, a.length ≤ 255 := fun a ha => (length_le_of_valid hv ha).trans (by decide)
  rw [rpcPayload, parseCommand_cleanFrame hd (by rwa [recordBytes_length]), parseArgs_recordBytes hargs hfuel]
  rfl

/-- Settles O6: the two conditions as `invalidArgs` tests them, and the sum alone decides. -/
theorem requestInvalidExactlyAboveCost253 : Obligations.RequestInvalidExactlyAboveCost253 := fun _ args =>
  ⟨invalidArgs_iff_or args, invalidArgs_iff args, fun hv _ => length_le_of_valid hv, buildCommand_eq_none⟩

/-- Settles O19: the checksum byte stands after the body, whose first nine bytes sum to 225 + L modulo 256. -/
theorem checksumOfEveryFrame : Obligations.ChecksumOfEveryFrame := by
  intro cmd args f hf
  obtain ⟨_, rfl⟩ := buildCommand_eq_some.mp hf
  generalize rpcPayload cmd args = p
  have hcheck : (cleanFrame Config.typeRpcCommand p).length - 2 = 9 + p.length := by rw [cleanFrame_length]; omega
  have hlast : (cleanFrame Config.typeRpcCommand p).length - 1 = 10 + p.length := by rw [cleanFrame_length]; omega
  rw [hcheck, hlast, cleanFrame_take_body]
  exact ⟨⟨_, cleanFrame_getElem?_checksum _ p, BitVec.toNat_ofNat _ 8, toNat_byteSum_requestFrame p⟩,
    cleanFrame_getElem?_terminator _ p⟩

/-- Settles O21: the frame is its payload and eleven bytes more, the payload its records and two. -/
theorem frameLengthLaw : Obligations.FrameLengthLaw := by
  intro cmd args f hf
  obtain ⟨hv, rfl⟩ := buildCommand_eq_some.mp hf
  have hcost := (validArgs_iff args).mp hv
  have hd : (BitVec.ofNat 8 (costSum args)).toNat = costSum args := toNat_ofNat_of_le (by omega)
  have hl : (BitVec.ofNat 8 (rpcPayload cmd args).length).toNat = 2 + costSum args := by
    rw [rpcPayload_length, toNat_ofNat_of_le (by omega)]
  have hlen : (cleanFrame Config.typeRpcCommand (rpcPayload cmd args)).length = 13 + costSum args := by
    rw [cleanFrame_length, rpcPayload_length]; omega
  exact ⟨hlen, _, _, cleanFrame_getElem?_length _ _, rfl, hd, by rw [hl, hd], by rw [hlen, hl]; omega⟩

end Sys2Proof.Machine
end

section
/-! PROOFS, family 40_encoder.md, second part: what requests, takes and write failures do to the whole state (R76 to R86), and
that the operations of one agent neither touch nor read the other (R90). -/

namespace Sys2Proof.Machine

/-! ### Requests -/

/-- Both branches of R76, by the cost of the arguments. -/
theorem encRequest_eq_ite (cmd : Byte) (args : List Bytes) (e : EncRegs) :
    encRequest cmd args e =
      if 253 < costSum args then { e with status := .encodingError }
      else { st := .emit, body := requestBody cmd args, idx := 0, csum := 0, status := .none } := by
  simp only [encRequest, invalidArgs_iff]

theorem offerRequest_enc {s : State} (h : s.enc.st = .idle) (cmd : Byte) (args : List Bytes) :
    (offerRequest cmd args s).enc = encRequest cmd args s.enc := by
  rw [offerRequest_idle h]

/-- From `Idle` an RpcCommand frame to be produced is the request and the takes after it (R86; log 7). -/
theorem exec_produced_idle {s : State} (h : s.enc.st = .idle) (cmd : Byte) (args : List Bytes) :
    exec (.rpcCommand (.produced cmd args)) s = drainFrame (offerRequest cmd args s) := by
  simp only [exec, execRpcCommand, h]

/-- In `Emit` it is the request alone (R77; log 7). -/
theorem exec_produced_emit {s : State} (h : s.enc.st = .emit) (cmd : Byte) (args : List Bytes) :
    exec (.rpcCommand (.produced cmd args)) s = applyInput (.encReq cmd args) s := by
  simp only [exec, execRpcCommand, h, applyInput]

/-- A valid request leaves the encoder with the invariant, whatever it held before (R76). -/
theorem encRequest_valid_inv {args : List Bytes} (h : invalidArgs args = false) (cmd : Byte) (e : EncRegs) :
    EncInv (encRequest cmd args e) := by
  rw [encRequest_valid h, ← encRequest_valid h cmd EncRegs.reset]
  exact encRequest_inv encReset_inv rfl cmd args

/-- Settles O7: `ENC` writes the registers that R76 gives, the body byte by byte that of R72 and R73. -/
theorem requestInIdleLatchesBodyOrRejects : Obligations.RequestInIdleLatchesBodyOrRejects := by
  intro s cmd args hs
  refine ⟨offerRequest cmd args s, rfl, offerRequest_dec .., offerRequest_trace .., ?_⟩
  rw [offerRequest_enc hs]
  split_ifs with h
  · exact encRequest_invalid ((invalidArgs_iff_or args).mpr h) cmd s.enc
  · have hv : invalidArgs args = false := Bool.eq_false_iff.mpr (mt (invalidArgs_iff_or args).mp h)
    rw [encRequest_valid hv, requestBody_eq]
    rfl

/-- Settles O9: the two arguments cost two bytes more than they have. -/
theorem wifiRequestLatchesTwoArguments : Obligations.WifiRequestLatchesTwoArguments := by
  refine ⟨fun s ssid password hs => ?_, by decide, by decide⟩
  refine ⟨offerRequest 0x01 [ssid, password] s, rfl, offerRequest_dec .., offerRequest_trace .., ?_⟩
  have hcost : costSum [ssid, password] = 2 + ssid.length + password.length := by simp; omega
  have hbound : 253 < 2 + ssid.length + password.length ↔ 251 < ssid.length + password.length := by omega
  have hlen : 2 + (2 + ssid.length + password.length) = 4 + ssid.length + password.length := by omega
  rw [offerRequest_enc hs, encRequest_eq_ite, requestBody_eq, hcost, hlen]
  simp [hbound]

/-- Settles O11: the body is the eleven bytes to `data_length`, `cmd` the tenth of them, and the records. -/
theorem everyCommandIdIsEncodedUnchanged : Obligations.EveryCommandIdIsEncodedUnchanged := by
  intro s cmd args hs hcost
  refine ⟨offerRequest cmd args s, rfl, offerRequest_dec .., offerRequest_trace .., ?_⟩
  rw [offerRequest_enc hs, encRequest_valid ((validArgs_iff args).mpr hcost)]
  exact ⟨rfl, rfl, rfl, rfl, rfl, requestBody_length cmd args⟩

/-- Settles O10: no arguments cost nothing, so none of the three is rejected. -/
theorem plainRequestsAreAlwaysLatched : Obligations.PlainRequestsAreAlwaysLatched := by
  refine ⟨fun s hs p hp => ?_, by decide, by decide, by decide⟩
  have hexec : exec p.2 s = .next (offerRequest p.1 [] s) := by
    simp only [List.mem_cons, List.not_mem_nil, or_false] at hp
    rcases hp with rfl | rfl | rfl <;> rfl
  refine ⟨_, hexec, offerRequest_dec .., offerRequest_trace .., ?_⟩
  rw [offerRequest_enc hs]
  exact encRequest_valid (args := []) rfl p.1 s.enc

/-- Settles O8: every form offers its request, which `Emit` adds to the held ones and `Idle` takes off them. -/
theorem requestInEmitIsHeld : Obligations.RequestInEmitIsHeld := by
  refine ⟨fun s cmd args ssid password hs => ?_, fun s cmd args hs => ?_⟩
  · have held (c : Byte) (as : List Bytes) :
        applyInput (.encReq c as) s = .next { s with heldRequests := s.heldRequests ++ [(c, as)] } :=
      congrArg _ (offerRequest_emit hs c as)
    exact ⟨held _ _, held _ _, (exec_produced_emit hs _ _).trans (held _ _), held _ _, held _ _, held _ _, held _ _,
      held _ _, held _ _, held _ _, held _ _⟩
  · exact ⟨offerRequest cmd args s, rfl, by rw [offerRequest_idle hs]⟩

/-! ### Takes and write failures -/

theorem exec_take (n : Nat) (s : State) : exec (.take n) s = .next (offerTake^[n] s) := runInputs_takes n s

theorem exec_take_idle {s : State} (h : s.enc.st = .idle) (n : Nat) : exec (.take n) s = .next s := by
  rw [exec_take, takes_idle h]

theorem drainFrame_idle {s : State} (h : s.enc.st = .idle) : drainFrame s = .next s := by
  rw [drainFrame, runInputs_takes, takes_idle h]

/-- The take of a body byte (R78). -/
theorem offerTake_body {s : State} (hs : s.enc.st = .emit) {b : Byte} (h : s.enc.body[s.enc.idx]? = some b) :
    offerTake s =
      { s with enc := { s.enc with csum := s.enc.csum + b, idx := s.enc.idx + 1 }, trace := s.trace ++ [.byte b] } := by
  obtain ⟨hlt, hb⟩ := List.getElem?_eq_some_iff.mp h
  simp [offerTake_emit hs, encAdvance, encPresented, hlt, hb]

/-- The take of the checksum (R78). -/
theorem offerTake_checksum {s : State} (hs : s.enc.st = .emit) (h : s.enc.idx = s.enc.body.length) :
    offerTake s =
      { s with enc := { s.enc with idx := s.enc.body.length + 1 }, trace := s.trace ++ [.byte s.enc.csum] } := by
  simp [offerTake_emit hs, encAdvance, encPresented, h]

/-- The take of the terminator (R78). -/
theorem offerTake_terminator {s : State} (hs : s.enc.st = .emit) (h : s.enc.body.length < s.enc.idx) :
    offerTake s = { s with enc := { s.enc with idx := 0, st := .idle, status := .sent }, trace := s.trace ++ [.byte 0x0A] } := by
  simp [offerTake_emit hs, encAdvance, encPresented, Nat.not_lt_of_gt h, Nat.ne_of_gt h, Config.terminator]

/-- Settles O12: `TAKE 1` is one `enc_take`, and each of its three bytes. -/
theorem takePresentsNextFrameByte : Obligations.TakePresentsNextFrameByte := by
  intro s hs
  rw [exec_take, Function.iterate_one]
  split
  · next b hb => rw [offerTake_body hs hb]
  · next hnone =>
    split_ifs with hidx
    · rw [offerTake_checksum hs hidx]
    · have hle := List.getElem?_eq_none_iff.mp hnone
      rw [offerTake_terminator hs (by omega)]

/-- An accepted frame needs 13 + S takes (R89). -/
theorem takesLeft_encRequest {args : List Bytes} (hv : invalidArgs args = false) (cmd : Byte) (e : EncRegs) :
    takesLeft (encRequest cmd args e) = 13 + costSum args := by
  rw [encRequest_valid hv, takesLeft_emit rfl, requestBody_length, Nat.sub_zero]
  omega

/-- A valid request and the takes its frame needs, over the whole state (R76, R78, R86). -/
theorem takes_after_request {s : State} (hs : s.enc.st = .idle) {cmd : Byte} {args : List Bytes}
    (hv : invalidArgs args = false) :
    offerTake^[13 + costSum args] (offerRequest cmd args s) = { s with
      enc := { st := .idle, body := requestBody cmd args, idx := 0, csum := byteSum (requestBody cmd args),
               status := .sent },
      heldRequests := s.heldRequests.erase (cmd, args),
      trace := s.trace ++ (cleanFrame Config.typeRpcCommand (rpcPayload cmd args)).map Output.byte } := by
  have henc : (offerRequest cmd args s).enc = _ := (offerRequest_enc hs cmd args).trans (encRequest_valid hv cmd s.enc)
  have hinv : EncInv (offerRequest cmd args s).enc := by
    rw [offerRequest_enc hs]
    exact encRequest_valid_inv hv cmd s.enc
  rw [← takesLeft_encRequest hv cmd s.enc, ← offerRequest_enc hs, takes_whole_frame hinv (by rw [henc]),
    offerRequest_idle hs, encRequest_valid hv]
  rfl

/-- Settles O15: 13 + S takes are those that the accepted frame needs. -/
theorem streamingEqualsBuildCommand : Obligations.StreamingEqualsBuildCommand := by
  intro s cmd args f hs hf
  obtain ⟨hv, rfl⟩ := buildCommand_eq_some.mp hf
  exact ⟨_, _, rfl, (exec_take _ _).trans (congrArg _ (takes_after_request hs hv)), rfl, rfl, rfl, rfl⟩

/-- Settles O16: an accepted request is drained, and after a rejected one no take is left. -/
theorem rpcCommandFrameIsPresentedWhole : Obligations.RpcCommandFrameIsPresentedWhole := by
  intro s cmd args hs
  rw [exec_produced_idle hs]
  cases hv : invalidArgs args with
  | true =>
    have henc : (offerRequest cmd args s).enc = { s.enc with status := .encodingError } :=
      (offerRequest_enc hs cmd args).trans (encRequest_invalid hv cmd s.enc)
    have hidle : (offerRequest cmd args s).enc.st = .idle := by rw [henc]; exact hs
    rw [buildCommand_eq_none.mpr hv]
    exact ⟨_, drainFrame_idle hidle, offerRequest_dec .., hidle, offerRequest_trace .., henc⟩
  | false =>
    rw [buildCommand_eq_some.mpr ⟨hv, rfl⟩, drainFrame, offerRequest_enc hs, takesLeft_encRequest hv, runInputs_takes,
      takes_after_request hs hv]
    exact ⟨_, rfl, rfl, rfl, rfl, rfl, rfl⟩

/-- Settles O17: the write failure leaves the encoder `Idle`, where takes present nothing. -/
theorem encFailAbandonsFrame : Obligations.EncFailAbandonsFrame := by
  intro s hs
  exact ⟨_, rfl, offerEncFail_emit hs, fun n => ⟨_, exec_take_idle (by rw [offerEncFail_emit hs]; rfl) n,
    offerEncFail_trace s⟩⟩

/-- Settles O18, input by input. -/
theorem inputsNotEnabledChangeNothing : Obligations.InputsNotEnabledChangeNothing := by
  refine ⟨fun s n hs => ⟨exec_take_idle hs n, drainFrame_idle hs, ?_⟩, fun s hs => ?_⟩
  · exact congrArg _ (offerEncFail_idle hs)
  · exact congrArg _ (offerDecFail_done hs)

end Sys2Proof.Machine
end

section
/-! PROOFS, family 40_encoder.md, third part: an operation is inputs of its own agent, chosen by that agent's registers, so it
writes that agent's side alone and does not read the other (R90); and what no operation touches (R80, R141, R150). -/

namespace Sys2Proof.Machine

/-! ### Operations as inputs of one agent (R13, R66) -/

/-- From every state with the encoder's registers `e` the operation is the inputs `xs`, all of them the encoder's. -/
structure IsEncoderInputs (i : Instr) (e : EncRegs) (xs : List Input) : Prop where
  inputs : ∀ x ∈ xs, encoderInput x = true
  exec_eq : ∀ s : State, s.enc = e → exec i s = runInputs xs s

/-- From every state with the decoder's registers `d` the operation is the inputs `ys`, all of them the decoder's, and
`dec_start` only where it is `START`. -/
structure IsDecoderInputs (i : Instr) (d : DecRegs) (ys : List Input) : Prop where
  inputs : ∀ y ∈ ys, decoderInput y = true
  start : .decStart ∈ ys → i = .start
  exec_eq : ∀ s : State, s.dec = d → exec i s = runInputs ys s

theorem isEncoderInputs_singleton {i : Instr} {x : Input} (hx : encoderInput x = true) {e : EncRegs}
    (h : ∀ s : State, s.enc = e → exec i s = applyInput x s) : IsEncoderInputs i e [x] where
  inputs := by simpa using hx
  exec_eq s hs := (h s hs).trans (runInputs_singleton x s).symm

theorem encoderInput_of_mem_takes {n : Nat} {x : Input} (hx : x ∈ List.replicate n Input.encTake) :
    encoderInput x = true := by
  rw [List.eq_of_mem_replicate hx]
  rfl

/-- An RpcCommand frame to be produced is the request and, where `Idle` takes it, the takes it then needs (R77, R86). -/
theorem rpcCommand_produced_inputs (cmd : Byte) (args : List Bytes) (e : EncRegs) :
    ∃ xs, IsEncoderInputs (.rpcCommand (.produced cmd args)) e xs := by
  cases he : e.st with
  | idle =>
    refine ⟨.encReq cmd args :: List.replicate (takesLeft (encRequest cmd args e)) .encTake,
      List.forall_mem_cons.mpr ⟨rfl, fun _ => encoderInput_of_mem_takes⟩, ?_⟩
    rintro s rfl
    rw [exec_produced_idle he, drainFrame, offerRequest_enc he]
    rfl
  | emit =>
    refine ⟨_, isEncoderInputs_singleton (x := .encReq cmd args) rfl ?_⟩
    rintro s rfl
    exact exec_produced_emit he cmd args

/-- An operation of the encoder's side is encoder inputs, the same from every state with these encoder registers. -/
theorem encoderSide_inputs {i : Instr} (hi : encoderSide i = true) (e : EncRegs) : ∃ xs, IsEncoderInputs i e xs := by
  have one {x : Input} (hx : encoderInput x = true) (h : exec i = applyInput x) : ∃ xs, IsEncoderInputs i e xs :=
    ⟨[x], isEncoderInputs_singleton hx fun s _ => congrFun h s⟩
  cases i with
  | rpcCommand form =>
    cases form with
    | received => cases hi
    | produced cmd args => exact rpcCommand_produced_inputs cmd args e
  | wifiSettings form | currentStateCmd form | deviceInfo form | scanWifi form | unassignedCommandId _ form =>
    cases form with
    | request => exact one (x := .encReq _ _) rfl rfl
    | response => cases hi
  | enc | wifi | getState | info | scan => exact one (x := .encReq _ _) rfl rfl
  | take n => exact ⟨List.replicate n .encTake, fun _ => encoderInput_of_mem_takes, fun s _ => rfl⟩
  | drain => exact ⟨List.replicate (takesLeft e) .encTake, fun _ => encoderInput_of_mem_takes, fun s hs => hs ▸ rfl⟩
  | encFail => exact one (x := .encFail) rfl rfl
  | _ => cases hi

/-- Bytes offered to the decoder are decoder inputs. -/
theorem offerBytes_inputs {i : Instr} {bs : Bytes} (h : exec i = offerBytes bs) (d : DecRegs) :
    ∃ ys, IsDecoderInputs i d ys :=
  ⟨bs.map .decByte, by simp [decoderInput], by simp, fun s _ => congrFun h s⟩

/-- An operation of the decoder's side that answers is decoder inputs, the same from every state with these decoder
registers. -/
theorem decoderSide_inputs {i : Instr} (hi : decoderSide i = true) {u t : State} (h : exec i u = .next t) :
    ∃ ys, IsDecoderInputs i u.dec ys := by
  by_cases hrow : leadOf i = leadDecByte
  · obtain ⟨st, b, rfl⟩ := exists_decRow_of_leadOf hrow
    obtain ⟨hst, _⟩ := exec_decRow_next h
    refine ⟨[.decByte b], by simp [decoderInput], by simp, fun s hs => ?_⟩
    rw [exec_decRow, whenSelected_here (hs ▸ hst), runInputs_singleton]
    rfl
  cases i with
  | currentState | errorState | rpcResult | unknownPacketType | feed => exact offerBytes_inputs rfl _
  | rpcCommand form =>
    cases form with
    | received => exact offerBytes_inputs rfl _
    | produced => cases hi
  | wifiSettings form | currentStateCmd form | deviceInfo form | scanWifi form | unassignedCommandId _ form =>
    cases form with
    | request => cases hi
    | response => exact offerBytes_inputs rfl _
  | start => exact ⟨[.decStart], by simp [decoderInput], fun _ => rfl, fun s _ => (runInputs_singleton .decStart s).symm⟩
  | decFail => exact ⟨[.decFail], by simp [decoderInput], by simp, fun s _ => (runInputs_singleton .decFail s).symm⟩
  | enc | take | drain | encFail | wifi | getState | info | scan | reset => cases hi
  | _ => exact absurd rfl hrow

/-! ### Lists of inputs of one agent write its side alone (R90) -/

theorem encoderInputs_write {xs : List Input} (hxs : ∀ x ∈ xs, encoderInput x = true) (e : EncRegs) :
    ∃ enc held bs, ∀ s : State, s.enc = e → runInputs xs s = .next (writeEncoderSide enc held bs s) := by
  induction xs generalizing e with
  | nil => exact ⟨e, id, [], by rintro s rfl; simp [writeEncoderSide]⟩
  | cons x xs ih =>
    obtain ⟨hx, hrest⟩ := List.forall_mem_cons.mp hxs
    obtain ⟨enc, held, bs, hone⟩ := encoderInput_writes hx e
    obtain ⟨enc', held', bs', hmore⟩ := ih hrest enc
    refine ⟨enc', held' ∘ held, bs ++ bs', fun s hs => ?_⟩
    rw [runInputs_cons, hone s hs, andThen_next, hmore _ rfl]
    simp [writeEncoderSide]

theorem decoderInputs_write {ys : List Input} (hys : ∀ y ∈ ys, decoderInput y = true) {u t : State}
    (h : runInputs ys u = .next t) :
    ∃ dec held es, ∀ s : State, s.dec = u.dec → runInputs ys s = .next (writeDecoderSide dec held es s) := by
  induction ys generalizing u with
  | nil => exact ⟨u.dec, id, [], fun s hs => by simp [writeDecoderSide, ← hs]⟩
  | cons y ys ih =>
    obtain ⟨hy, hrest⟩ := List.forall_mem_cons.mp hys
    obtain ⟨v, hv, ht⟩ := andThen_eq_next.mp h
    obtain ⟨dec, held, es, hone⟩ := decoderInput_writes hy hv
    have hdec : v.dec = dec := by
      cases hv.symm.trans (hone u rfl)
      rfl
    obtain ⟨dec', held', es', hmore⟩ := ih hrest ht
    refine ⟨dec', held' ∘ held, es ++ es', fun s hs => ?_⟩
    rw [runInputs_cons, hone s hs, andThen_next, hmore _ hdec.symm]
    simp [writeDecoderSide]

theorem encoderSide_writes {i : Instr} (hi : encoderSide i = true) (e : EncRegs) :
    ∃ enc held bs, ∀ s : State, s.enc = e → exec i s = .next (writeEncoderSide enc held bs s) := by
  obtain ⟨xs, hxs, hexec⟩ := encoderSide_inputs hi e
  obtain ⟨enc, held, bs, hrun⟩ := encoderInputs_write hxs e
  exact ⟨enc, held, bs, fun s hs => (hexec s hs).trans (hrun s hs)⟩

theorem decoderSide_writes {i : Instr} (hi : decoderSide i = true) {u t : State} (h : exec i u = .next t) :
    ∃ dec held es, ∀ s : State, s.dec = u.dec → exec i s = .next (writeDecoderSide dec held es s) := by
  obtain ⟨ys, hys, _, hexec⟩ := decoderSide_inputs hi h
  obtain ⟨dec, held, es, hrun⟩ := decoderInputs_write hys ((hexec u rfl).symm.trans h)
  exact ⟨dec, held, es, fun s hs => (hexec s hs).trans (hrun s hs)⟩

/-- Settles O49: an operation of one side is one write to that side, the same from every state with that agent's registers. -/
theorem agentsShareNothing : Obligations.AgentsShareNothing := by
  refine fun i s t h => ⟨fun hi => ?_, fun hi => ?_⟩
  · obtain ⟨enc, held, bs, hw⟩ := encoderSide_writes hi s.enc
    cases h.symm.trans (hw s rfl)
    exact ⟨rfl, rfl, fun s' hs' => ⟨_, _, hw s' hs', rfl, rfl, rfl, rfl⟩⟩
  · obtain ⟨dec, held, es, hw⟩ := decoderSide_writes hi h
    cases h.symm.trans (hw s rfl)
    exact ⟨rfl, rfl, fun s' hs' => ⟨_, _, hw s' hs', rfl, rfl, rfl, rfl⟩⟩

/-! ### What no input touches -/

@[simp] theorem offerRequest_script (cmd : Byte) (args : List Bytes) (s : State) :
    (offerRequest cmd args s).script = s.script := by
  unfold offerRequest; split <;> rfl
@[simp] theorem offerTake_script (s : State) : (offerTake s).script = s.script := by unfold offerTake; split <;> rfl
@[simp] theorem offerEncFail_script (s : State) : (offerEncFail s).script = s.script := by
  unfold offerEncFail; split <;> rfl
@[simp] theorem offerDecFail_script (s : State) : (offerDecFail s).script = s.script := by
  unfold offerDecFail; split <;> rfl

theorem applyInput_script {x : Input} {s t : State} (h : applyInput x s = .next t) : t.script = s.script := by
  cases x with
  | decByte b => obtain ⟨_, rfl⟩ | ⟨_, _, rfl⟩ := offerByte_next h <;> rfl
  | _ => cases h; simp

/-- What was put out stays put out (R14). -/
theorem applyInput_trace_prefix {x : Input} {s t : State} (h : applyInput x s = .next t) : s.trace <+: t.trace := by
  obtain htr | ⟨_, b, htr⟩ | ⟨_, e, _, htr, _⟩ := oneOutputPerInput x s t h <;> rw [htr]
  · exact List.prefix_append _ _
  · exact List.prefix_append _ _

/-- Bytes held stay held but for `dec_start` and `reset` (R150). -/
theorem applyInput_heldBytes_prefix {x : Input} (hstart : x ≠ .decStart) (hreset : x ≠ .reset) {s t : State}
    (h : applyInput x s = .next t) : s.heldBytes <+: t.heldBytes := by
  cases x with
  | decByte b =>
    obtain ⟨_, rfl⟩ | ⟨_, _, rfl⟩ := offerByte_next h
    · exact List.prefix_append _ _
    · exact List.prefix_rfl
  | decStart => contradiction
  | reset => contradiction
  | _ => cases h; simp

/-- Any operation but `START` and `RESET` is inputs other than `dec_start` and `reset`. -/
theorem exec_next_runInputs_of_ne {i : Instr} (hstart : i ≠ .start) (hreset : i ≠ .reset) {s t : State}
    (h : exec i s = .next t) : ∃ xs, (∀ x ∈ xs, x ≠ .decStart ∧ x ≠ .reset) ∧ runInputs xs s = .next t := by
  by_cases henc : encoderSide i = true
  · obtain ⟨xs, hxs, hexec⟩ := encoderSide_inputs henc s.enc
    refine ⟨xs, fun x hx => ⟨?_, ?_⟩, (hexec s rfl).symm.trans h⟩
    · rintro rfl; cases hxs _ hx
    · rintro rfl; cases hxs _ hx
  · have hdec : decoderSide i = true := by simp [decoderSide, henc, hreset]
    obtain ⟨ys, hys, hstarts, hexec⟩ := decoderSide_inputs hdec h
    refine ⟨ys, fun y hy => ⟨?_, ?_⟩, (hexec s rfl).symm.trans h⟩
    · rintro rfl; exact hstart (hstarts hy)
    · rintro rfl; cases hys _ hy

theorem runInputs_heldBytes_prefix {xs : List Input} (hxs : ∀ x ∈ xs, x ≠ .decStart ∧ x ≠ .reset) {s t : State}
    (h : runInputs xs s = .next t) : s.heldBytes <+: t.heldBytes := by
  induction xs generalizing s with
  | nil => cases h; exact List.prefix_rfl
  | cons x xs ih =>
    obtain ⟨⟨hstart, hreset⟩, hrest⟩ := List.forall_mem_cons.mp hxs
    obtain ⟨u, hu, ht⟩ := andThen_eq_next.mp h
    exact (applyInput_heldBytes_prefix hstart hreset hu).trans (ih hrest ht)

/-- Settles O51: what every input keeps an operation keeps, and only `START` and `RESET` take held bytes back. -/
theorem operationsKeepQueueTraceAndHeldBytes : Obligations.OperationsKeepQueueTraceAndHeldBytes := by
  intro i s t h
  obtain ⟨xs, hrun⟩ := exec_next_runInputs h
  refine ⟨?_, ?_, fun hstart hreset => ?_, ?_⟩
  · exact runInputs_keeps (P := fun u => u.script = s.script) (fun _ _ _ hu hx => (applyInput_script hx).trans hu) rfl hrun
  · exact runInputs_keeps (P := fun u => s.trace <+: u.trace) (fun _ _ _ hu hx => hu.trans (applyInput_trace_prefix hx))
      List.prefix_rfl hrun
  · obtain ⟨ys, hys, hrun'⟩ := exec_next_runInputs_of_ne hstart hreset h
    exact runInputs_heldBytes_prefix hys hrun'
  · rintro (rfl | rfl) <;> cases h <;> exact ⟨rfl, rfl, rfl⟩

end Sys2Proof.Machine
end

section
/-! PROOFS, family 41_decoder.md, first part: each row of the position `decoder.state` as one equation over the whole state
(R93 to R104), and `dec_fail` (R106). -/

namespace Sys2Proof.Machine

/-! ### A rule lands on the state -/

/-- A rule without an event writes the decoder's registers alone. -/
theorem landDec_of_silent {r : DecRegs × Option Event} (h : r.2 = none) (s : State) :
    landDec r s = { s with dec := r.1 } := by
  simp [landDec, h]

@[simp] theorem landDec_none (d : DecRegs) (s : State) : landDec (d, none) s = { s with dec := d } :=
  landDec_of_silent rfl s

@[simp] theorem landDec_some (d : DecRegs) (e : Event) (s : State) :
    landDec (d, some e) s = { s with dec := d, trace := s.trace ++ [.event e] } := rfl

/-- A completed record over the whole state: the row goes on, or is emitted and, but for `ScanWifi`'s, ends
the run (R105). -/
theorem landDec_finishRecord (d : DecRegs) (s : State) :
    landDec (finishRecord d) s =
      if d.dlen ≤ 0 then
        { s with
          dec := if d.rcmd = Config.cmdScanWifi then { d with cur := [], fields := [], st := .syncHeader }
            else { d with cur := [], fields := d.fields ++ [d.cur], st := .done, reason := .rpcDone },
          trace := s.trace ++ [.event (.rpcResult d.rcmd (d.fields ++ [d.cur]))] }
      else { s with dec := { d with cur := [], fields := d.fields ++ [d.cur], st := .readRpcStrLen } } := by
  rcases finishRecord_cases d with ⟨hpos, h⟩ | ⟨hle, hc, h⟩ | ⟨hle, hc, h⟩ <;> rw [h]
  · rw [landDec_none, if_neg (by omega)]
  · rw [landDec_some, if_pos hle, if_pos hc]
  · rw [landDec_some, if_pos hle, if_neg hc]

/-! ### The rows -/

/-- Settles O22: the row is R95's rule, with R6's default `P_KEEP` and the six header bytes written out. -/
theorem syncHeaderSlidesWindow : Obligations.SyncHeaderSlidesWindow := by
  intro s b hs
  refine (whenSelected_here hs _).trans ?_
  have hdrop : lastN 6 (s.dec.win ++ [b]) = (s.dec.win ++ [b]).drop (s.dec.win.length + 1 - 6) := by simp [lastN]
  by_cases hk : 0x20 ≤ b.toNat ∧ b.toNat ≤ 0x7E
  · have hkeep : Config.pKeep b = true := by simpa [Config.pKeep] using hk
    simp only [ruleSyncHeader, slideWindow, hkeep, if_true, Config.windowLen, hdrop, if_pos hk,
      apply_ite (landDec · s), landDec_none, apply_ite Host.Outcome.next]
    rfl
  · have hkeep : Config.pKeep b = false := by simpa [Config.pKeep] using hk
    simp [ruleSyncHeader, slideWindow, hkeep, hk, Config.header]

/-- Settles O23: both answers of R96. -/
theorem readVersionAcceptsOnlyVersionOne : Obligations.ReadVersionAcceptsOnlyVersionOne := by
  intro s b hs
  refine (whenSelected_here hs _).trans ?_
  by_cases hb : b = 0x01
  · rw [ruleReadVersion, if_pos (c := b = Config.version) hb, landDec_none, if_pos hb]
  · rw [ruleReadVersion, if_neg (c := b = Config.version) hb, landDec_none, if_neg hb]

/-- Settles O24: R97's two writes, with no event. -/
theorem readTypeRecordsPacketType : Obligations.ReadTypeRecordsPacketType := fun s b hs =>
  (whenSelected_here hs _).trans (by simp [ruleReadType])

theorem ruleReadLength_silent (b : Byte) (d : DecRegs) : (ruleReadLength b d).2 = none := by
  unfold ruleReadLength
  dsimp only
  split_ifs <;> rfl

/-- Settles O25: the branches of R98 in their order. -/
theorem readLengthSelectsByPacketType : Obligations.ReadLengthSelectsByPacketType := by
  intro s b hs
  refine (whenSelected_here hs _).trans ?_
  rw [landDec_of_silent (ruleReadLength_silent b s.dec)]
  simp only [ruleReadLength, lengthIsZero, decide_eq_true_eq, apply_ite Prod.fst]
  rfl

/-- Settles O26: both answers of R99, each with its event. -/
theorem readStateByteEmitsCurrentState : Obligations.ReadStateByteEmitsCurrentState := by
  intro s b hs
  refine (whenSelected_here hs _).trans ?_
  by_cases hb : b = 0
  · simp only [ruleReadStateByte, if_pos hb, landDec_some, terminate]
  · simp only [ruleReadStateByte, if_neg hb, landDec_some]

/-- Settles O27: where the row is selected it is R100's rule. -/
theorem readErrorByteEmitsAndTerminates : Obligations.ReadErrorByteEmitsAndTerminates := fun _ _ hs =>
  whenSelected_here hs _

/-- Settles O28: R101's two writes, with no event. -/
theorem readRpcResponseCmdRecordsCommand : Obligations.ReadRpcResponseCmdRecordsCommand := fun s b hs =>
  (whenSelected_here hs _).trans (by simp [ruleReadRpcResponseCmd])

/-- Settles O29: both answers of R102, neither with an event. -/
theorem readRpcDataLenEndsOnZero : Obligations.ReadRpcDataLenEndsOnZero := by
  intro s b hs
  refine (whenSelected_here hs _).trans ?_
  by_cases hb : b = 0
  · subst hb
    simp only [ruleReadRpcDataLen, if_true, landDec_none, terminate]
    rfl
  · simp only [ruleReadRpcDataLen, if_neg hb, landDec_none]

/-- Settles O30: a zero length is a completed record without bytes. -/
theorem readRpcStrLenStartsOrFinishesRecord : Obligations.ReadRpcStrLenStartsOrFinishesRecord := by
  intro s b hs
  refine (whenSelected_here hs _).trans ?_
  by_cases hb : b = 0
  · subst hb
    simp only [ruleReadRpcStrLen, if_true, landDec_finishRecord, apply_ite Host.Outcome.next, hs]
    rfl
  · simp only [ruleReadRpcStrLen, if_neg hb, landDec_none]

/-- Settles O31: the record is complete with this byte, or goes on. -/
theorem readRpcStrDataAppendsOrFinishesRecord : Obligations.ReadRpcStrDataAppendsOrFinishesRecord := by
  intro s b hs
  refine (whenSelected_here hs _).trans ?_
  by_cases hlen : s.dec.cur.length + 1 = s.dec.slen.toNat
  · simp only [ruleReadRpcStrData_of_eq hlen, landDec_finishRecord, apply_ite Host.Outcome.next, if_pos hlen]
    rfl
  · rw [ruleReadRpcStrData_of_ne hlen, landDec_none, if_neg hlen]

/-- Settles O32: the row and `FEED` of one byte offer the byte in `Done`. -/
theorem byteInDoneIsHeld : Obligations.ByteInDoneIsHeld := fun _ b hs =>
  ⟨whenSelected_here hs _, offerBytes_done hs [b]⟩

/-- Settles O42: what `dec_fail` does outside `Done` (R106, R130). -/
theorem decFailDiscardsPartialRow : Obligations.DecFailDiscardsPartialRow := fun _ hs =>
  congrArg Host.Outcome.next (offerDecFail_running hs)

end Sys2Proof.Machine
end


section
/-! PROOFS, family 41_decoder.md, second part: the five ways an input ends a run (R110). -/

namespace Sys2Proof.Machine

/-- A completed record ends the run exactly where its row is emitted under an id other than `ScanWifi`'s (R105). -/
theorem finishRecord_done_iff (d : DecRegs) :
    (finishRecord d).1.st = .done ↔
      ∃ fs, fs ≠ [] ∧ d.rcmd ≠ 0x04 ∧ (finishRecord d).2 = some (.rpcResult d.rcmd fs) ∧
        (finishRecord d).1.reason = .rpcDone := by
  obtain ⟨_, h⟩ | ⟨_, hc, h⟩ | ⟨_, hc, h⟩ := finishRecord_cases d <;> rw [h]
  · exact ⟨nofun, fun ⟨_, _, _, he, _⟩ => nomatch he⟩
  · exact ⟨nofun, fun ⟨_, _, hne, _⟩ => absurd hc hne⟩
  · exact ⟨fun _ => ⟨_, by simp, hc, rfl, rfl⟩, fun _ => rfl⟩

/-- The ways a byte ends a run, rule by rule, with the event and the reason (R110). -/
theorem decByteWith_done_iff {d : DecRegs} (hd : d.st ≠ .done) (keep : Byte → Bool) (b : Byte) :
    (decByteWith keep b d).1.st = .done ↔
      (b = 0 ∧ d.st = .readStateByte ∧ (decByteWith keep b d).2 = some (.currentState 0) ∧
        (decByteWith keep b d).1.reason = .stopped) ∨
      (d.st = .readErrorByte ∧ (decByteWith keep b d).2 = some (.errorState b) ∧
        (decByteWith keep b d).1.reason = .errorState) ∨
      ((d.st = .readRpcStrLen ∨ d.st = .readRpcStrData) ∧ ∃ fs, fs ≠ [] ∧ d.rcmd ≠ 0x04 ∧
        (decByteWith keep b d).2 = some (.rpcResult d.rcmd fs) ∧ (decByteWith keep b d).1.reason = .rpcDone) ∨
      (b = 0 ∧ d.st = .readRpcDataLen ∧ (decByteWith keep b d).2 = none ∧
        (decByteWith keep b d).1.reason = .rpcEmpty) := by
  cases hs : d.st with
  | syncHeader =>
    simp only [decByteWith, hs, ruleSyncHeader]
    split_ifs <;> simp
  | readVersion =>
    simp only [decByteWith, hs, ruleReadVersion]
    split_ifs <;> simp
  | readType => simp [decByteWith, hs, ruleReadType]
  | readLength =>
    simp only [decByteWith, hs, ruleReadLength]
    split_ifs <;> simp
  | readStateByte =>
    by_cases hb : b = 0#8 <;> simp [decByteWith, hs, ruleReadStateByte, hb]
  | readErrorByte => simp [decByteWith, hs, ruleReadErrorByte]
  | readRpcResponseCmd => simp [decByteWith, hs, ruleReadRpcResponseCmd]
  | readRpcDataLen =>
    by_cases hb : b = 0#8 <;> simp [decByteWith, hs, ruleReadRpcDataLen, hb]
  | readRpcStrLen =>
    simp only [decByteWith, hs, ruleReadRpcStrLen]
    split_ifs
    · simpa [hs] using finishRecord_done_iff { d with dlen := d.dlen - 1, slen := b, cur := [] }
    · simp
  | readRpcStrData =>
    simp only [decByteWith, hs, ruleReadRpcStrData]
    split_ifs
    · simpa [hs] using finishRecord_done_iff { d with cur := d.cur ++ [b], dlen := d.dlen - 1 }
    · simp
  | done => exact absurd hs hd
  | unused k => simp [decByteWith, hs]

/-- Settles O47: of the inputs only `dec_byte` and `dec_fail` enter `Done`, `dec_byte` by four rules. -/
theorem terminalCausesAreComplete : Obligations.TerminalCausesAreComplete := by
  intro x s t h hd
  cases x with
  | encReq cmd args => cases h; simpa using hd
  | encTake => cases h; simpa using hd
  | encFail => cases h; simpa using hd
  | decStart => cases h; simp
  | reset => cases h; simp
  | decFail => cases h; simp [offerDecFail_running hd]
  | decByte b =>
    obtain ⟨hdone, _⟩ | ⟨_, _, rfl⟩ := offerByte_next h
    · exact absurd hdone hd
    · rw [landDec_dec, decByteWith_done_iff hd]
      simp

end Sys2Proof.Machine
end


section
/-! PROOFS, family 41_decoder.md, third part: frames that arrive at a decoder with an empty window (R115). The nine bytes to the
length lead to `ReadLength`'s answer; from there the payload runs, and where it ends the run the two bytes after it are held. -/

namespace Sys2Proof.Machine

/-! ### Bytes fed up to a terminal condition, and no further (R93) -/

theorem decRun_assigned {d : DecRegs} (h : assignedSt d.st = true) (keep : Byte → Bool) (bs : Bytes) :
    assignedSt (decRun keep bs d).1.st = true := by
  induction bs generalizing d with
  | nil => exact h
  | cons b bs ih => exact ih (decByteWith_assigned h keep b)

/-- Bytes after which the decoder still runs are all taken. -/
theorem offerBytes_of_running {s : State} (ha : assignedSt s.dec.st = true) {bs : Bytes}
    (h : (decRun Config.pKeep bs s.dec).1.st ≠ .done) :
    offerBytes bs s =
      .next (writeDecoderSide (decRun Config.pKeep bs s.dec).1 id (decRun Config.pKeep bs s.dec).2 s) := by
  obtain ⟨k, hk, hrun, _, hrest⟩ := offerBytes_splits ha bs
  obtain hlt | rfl := Nat.lt_or_eq_of_le hk
  · refine absurd ?_ h
    rw [← List.take_append_drop k bs, decRun_append, decRun_done (hrest hlt)]
    exact hrest hlt
  · rw [hrun, List.take_length, List.drop_length, List.append_nil]
    rfl

/-- Where a byte ends the run, the bytes up to it are taken and those after it are held. -/
theorem offerBytes_of_ends {s : State} (ha : assignedSt s.dec.st = true) {bs : Bytes} {b : Byte}
    (hrun : (decRun Config.pKeep bs s.dec).1.st ≠ .done)
    (hend : (decRun Config.pKeep (bs ++ [b]) s.dec).1.st = .done) (rest : Bytes) :
    offerBytes (bs ++ [b] ++ rest) s =
      .next (writeDecoderSide (decRun Config.pKeep (bs ++ [b]) s.dec).1 (· ++ rest)
        (decRun Config.pKeep (bs ++ [b]) s.dec).2 s) := by
  rw [decRun_append] at hend ⊢
  rw [offerBytes_append, offerBytes_append, offerBytes_of_running ha hrun, andThen_next, offerBytes_singleton,
    offerByte_running (decRun_assigned ha _ bs) hrun, andThen_next, offerBytes_done hend]
  simp [writeDecoderSide, landDec, Option.toList_map]

/-! ### The bytes before and after a payload (R48) -/

theorem ruleReadLength_running (b : Byte) (d : DecRegs) : (ruleReadLength b d).1.st ≠ .done := by
  unfold ruleReadLength
  dsimp only
  split_ifs <;> nofun

/-- The nine bytes before a payload of `len` bytes lead from an empty window to `ReadLength`'s answer (R95 to R98). -/
theorem decRun_toLength {d : DecRegs} (hs : d.st = .syncHeader) (hw : d.win = []) (t len : Byte) :
    decRun Config.pKeep (Config.header ++ [Config.version, t] ++ [len]) d =
      ((ruleReadLength len { d with ptype := t, st := .readLength }).1, []) := by
  rw [decRun_append, decRun_frameHead hs hw, decRun_cons]
  simp [decByteWith, ruleReadLength_silent]

/-- A frame that arrives at an empty window is its payload and the two bytes after it, offered to `ReadLength`'s answer. -/
theorem offerBytes_wireFrame {s : State} (hs : s.dec.st = .syncHeader) (hw : s.dec.win = []) (t : Byte) (payload : Bytes)
    (csum term : Byte) :
    offerBytes (wireFrame t payload csum term) s =
      offerBytes (payload ++ [csum, term])
        { s with dec :=
          (ruleReadLength (BitVec.ofNat 8 payload.length) { s.dec with ptype := t, st := .readLength }).1 } := by
  have hsplit : wireFrame t payload csum term =
      Config.header ++ [Config.version, t] ++ [BitVec.ofNat 8 payload.length] ++ (payload ++ [csum, term]) := by
    simp [wireFrame, frameBody]
  have hhead := decRun_toLength hs hw t (BitVec.ofNat 8 payload.length)
  rw [hsplit, offerBytes_append, offerBytes_of_running (by rw [hs]; rfl) (by rw [hhead]; exact ruleReadLength_running _ _),
    andThen_next, hhead]
  simp [writeDecoderSide]

/-- A byte that cannot complete the header, for the window is too short, is noise (R62, R95). -/
theorem offerByte_noise {s : State} (hs : s.dec.st = .syncHeader) (hlen : s.dec.win.length + 1 < Config.windowLen)
    (b : Byte) :
    offerByte b s = .next { s with dec := { s.dec with win := slideWindow Config.pKeep b s.dec.win } } := by
  have hne : slideWindow Config.pKeep b s.dec.win ≠ Config.header := fun he => by
    have hle := (slideWindow_suffix Config.pKeep b s.dec.win).length_le
    rw [he, List.length_append] at hle
    exact absurd hle (Nat.not_le.mpr hlen)
  rw [offerByte_running (by rw [hs]; rfl) (by rw [hs]; nofun)]
  simp only [decByteWith, hs, ruleSyncHeader, if_neg hne, landDec_none]

/-- The checksum and the terminator are noise to `SyncHeader` with an empty window (R62, R95). -/
theorem offerBytes_trailer {s : State} (hs : s.dec.st = .syncHeader) (hw : s.dec.win = []) (csum term : Byte) :
    offerBytes [csum, term] s =
      .next { s with dec := { s.dec with win := slideWindow Config.pKeep term (slideWindow Config.pKeep csum []) } } := by
  have hshort : (slideWindow Config.pKeep csum []).length + 1 < Config.windowLen := by
    have hle := (slideWindow_suffix Config.pKeep csum []).length_le
    simp only [Config.windowLen, List.nil_append, List.length_singleton] at hle ⊢
    omega
  rw [offerBytes_cons, offerByte_noise hs (by rw [hw]; decide), andThen_next, offerBytes_singleton, hw,
    offerByte_noise (by exact hs) hshort]

/-! ### Frames with one payload byte, and frames that are discarded -/

/-- The first byte offered runs the row that `dec.st` selects (R65). -/
theorem offerBytes_row {s u : State} {st : DecSt} {b : Byte} (hs : s.dec.st = st) (h : exec (decRow st b) s = .next u)
    (bs : Bytes) : offerBytes (b :: bs) s = offerBytes bs u := by
  rw [exec_decRow, whenSelected_here hs] at h
  rw [offerBytes_cons, h, andThen_next]

/-- Settles O37: the value byte ends the run, or leaves the two bytes after it to `SyncHeader`. -/
theorem cleanStateFrameEmitsCurrentState : Obligations.CleanStateFrameEmitsCurrentState := by
  intro s v csum term hs hw
  have hrow := readStateByteEmitsCurrentState
    { s with dec := { s.dec with ptype := Config.typeCurrentState, flen := 1, st := .readStateByte } } v rfl
  refine (offerBytes_wireFrame hs hw _ _ _ _).trans ((offerBytes_row (st := .readStateByte) rfl hrow [csum, term]).trans ?_)
  by_cases hv : v = 0
  · simp only [if_pos hv]
    exact offerBytes_done rfl [csum, term]
  · simp only [if_neg hv]
    refine (offerBytes_trailer (by rfl) (by exact hw) csum term).trans ?_
    rw [hs]
    rfl

/-- Settles O38: the value byte ends the run. -/
theorem cleanErrorFrameTerminates : Obligations.CleanErrorFrameTerminates := by
  intro s v csum term hs hw
  have hrow := readErrorByteEmitsAndTerminates
    { s with dec := { s.dec with ptype := Config.typeErrorState, flen := 1, st := .readErrorByte } } v rfl
  refine (offerBytes_wireFrame hs hw _ _ _ _).trans ((offerBytes_row (st := .readErrorByte) rfl hrow [csum, term]).trans ?_)
  exact offerBytes_done rfl [csum, term]

/-- A length of 0, and a type that the decoder does not handle, lead back to `SyncHeader` (R98). -/
theorem ruleReadLength_discards {b : Byte} {d : DecRegs}
    (h : b = 0 ∨ d.ptype ≠ 0x04 ∧ d.ptype ≠ 0x01 ∧ d.ptype ≠ 0x02) :
    ruleReadLength b d = ({ d with flen := b, st := .syncHeader }, none) := by
  by_cases hb : b = 0
  · simp only [ruleReadLength, lengthIsZero, hb, decide_true, if_true]
  · obtain ⟨h4, h1, h2⟩ := h.resolve_left hb
    simp only [ruleReadLength, lengthIsZero, decide_eq_true_eq, if_neg hb]
    rw [if_neg (by exact h4), if_neg (by exact h1), if_neg (by exact h2)]

/-- A discarded frame leaves its payload and the two bytes after it to `SyncHeader` (R62, R98). -/
theorem offerBytes_discardedFrame {s : State} (hs : s.dec.st = .syncHeader) (hw : s.dec.win = []) {t : Byte}
    {payload : Bytes} (h : BitVec.ofNat 8 payload.length = 0 ∨ t ≠ 0x04 ∧ t ≠ 0x01 ∧ t ≠ 0x02) (csum term : Byte) :
    offerBytes (wireFrame t payload csum term) s =
      offerBytes (payload ++ [csum, term])
        { s with dec := { s.dec with ptype := t, flen := BitVec.ofNat 8 payload.length } } := by
  rw [offerBytes_wireFrame hs hw, ruleReadLength_discards h, ← hs]

/-- Settles O40: a length of 0, and a type that is not handled, lead back to `SyncHeader` with an empty window. -/
theorem discardedFramesResync : Obligations.DiscardedFramesResync := by
  refine ⟨fun s ptype csum term hs hw p hp => ?_, fun s ptype csum term payload hs hw _ h1 h2 h4 i hi => ?_⟩
  · have hrow : exec p.2 s = offerBytes (wireFrame p.1 [] csum term) s := by
      simp only [List.mem_cons, List.not_mem_nil, or_false] at hp
      rcases hp with rfl | rfl | rfl | rfl | rfl <;> rfl
    rw [hrow, offerBytes_discardedFrame hs hw (.inl rfl)]
    exact offerBytes_trailer (by exact hs) (by exact hw) csum term
  · have hrow : exec i s = offerBytes (wireFrame ptype payload csum term) s := by
      rcases List.mem_append.mp hi with hi | hi
      · rw [List.mem_singleton.mp hi]
        rfl
      · split_ifs at hi with h3
        · rw [List.mem_singleton.mp hi, h3]
          rfl
        · cases hi
    rw [hrow, offerBytes_discardedFrame hs hw (.inr ⟨h4, h1, h2⟩)]
    obtain ⟨t, ht, _⟩ := offerBytes_decRun (s := { s with dec :=
      { s.dec with ptype := ptype, flen := BitVec.ofNat 8 payload.length } }) (by rw [hs]; rfl) (payload ++ [csum, term])
    exact ⟨t, ht, ht⟩

/-! ### Result frames -/

theorem finishRecord_of_pos {d : DecRegs} (h : 0 < d.dlen) :
    finishRecord d = ({ d with fields := d.fields ++ [d.cur], cur := [], st := .readRpcStrLen }, none) := by
  obtain ⟨_, he⟩ | ⟨hle, _⟩ | ⟨hle, _⟩ := finishRecord_cases d
  · exact he
  · omega
  · omega

/-- Inside a row a byte costs one, and the row goes on while `data_length` is then positive (R103 to R105). -/
theorem decByteWith_row {d : DecRegs} (hs : d.st = .readRpcStrLen ∨ d.st = .readRpcStrData) (h : 1 < d.dlen)
    (keep : Byte → Bool) (b : Byte) :
    ((decByteWith keep b d).1.st = .readRpcStrLen ∨ (decByteWith keep b d).1.st = .readRpcStrData) ∧
      (decByteWith keep b d).1.dlen = d.dlen - 1 := by
  have hpos : 0 < d.dlen - 1 := by omega
  rcases hs with hs | hs
  · simp only [decByteWith, hs, ruleReadRpcStrLen]
    split_ifs
    · rw [finishRecord_of_pos (by exact hpos)]
      exact ⟨.inl rfl, rfl⟩
    · exact ⟨.inr rfl, rfl⟩
  · simp only [decByteWith, hs, ruleReadRpcStrData]
    split_ifs
    · rw [finishRecord_of_pos (by exact hpos)]
      exact ⟨.inl rfl, rfl⟩
    · exact ⟨.inr rfl, rfl⟩

/-- A row does not end before as many bytes as `data_length` says have come. -/
theorem decRun_row_running (keep : Byte → Bool) {d : DecRegs} (hs : d.st = .readRpcStrLen ∨ d.st = .readRpcStrData)
    {bs : Bytes} (hlen : bs.length < d.dlen) : (decRun keep bs d).1.st ≠ .done := by
  induction bs generalizing d with
  | nil => rcases hs with hs | hs <;> simp [hs]
  | cons b bs ih =>
    rw [List.length_cons] at hlen
    obtain ⟨hst, hdlen⟩ := decByteWith_row hs (by omega) keep b
    exact ih hst (by omega)

/-- The records of a row end with a byte, and those before it are fewer than the row costs. -/
theorem exists_last_recordBytes {records : List Bytes} (hne : records ≠ []) :
    ∃ init last, recordBytes records = init ++ [last] ∧ init.length < costSum records := by
  have hpos := costSum_pos hne
  rw [← recordBytes_length] at hpos ⊢
  obtain hnil | ⟨init, last, h⟩ := List.eq_nil_or_concat' (recordBytes records)
  · simp [hnil] at hpos
  · exact ⟨init, last, h, by simp [h]⟩

/-- A terminal row ends with the last byte of its frame's payload, so the two bytes after it are held (R93, R105). -/
theorem offerBytes_terminalRow {s : State} (hs : s.dec.st = .syncHeader) (hw : s.dec.win = []) {c : Byte}
    (hc : c ≠ Config.cmdScanWifi) {records : List Bytes} (hne : records ≠ []) (hcost : costSum records ≤ 253)
    (csum term : Byte) :
    ∃ slen, offerBytes (wireFrame Config.typeRpcResult (rpcPayload c records) csum term) s =
      .next (writeDecoderSide (afterRow slen records (beforeRow c (costSum records) s.dec)) (· ++ [csum, term])
        [.rpcResult c records] s) := by
  have hlen (r) (hr : r ∈ records) : r.length ≤ 255 := by
    have := length_lt_costSum hr
    omega
  have hhead := decRun_resultHead hs hw c hcost
  rw [if_neg (costSum_pos hne).ne'] at hhead
  obtain ⟨init, last, hsplit, hinit⟩ := exists_last_recordBytes hne
  obtain ⟨slen, hrow⟩ := decRun_recordBytes Config.pKeep (d := beforeRow c (costSum records) s.dec) rfl hne hlen rfl
  have hrun : (decRun Config.pKeep (resultHead c (costSum records) ++ init) s.dec).1.st ≠ .done := by
    rw [decRun_append, hhead]
    exact decRun_row_running Config.pKeep (.inl rfl) (Int.ofNat_lt.mpr hinit)
  have hall : decRun Config.pKeep (resultHead c (costSum records) ++ init ++ [last]) s.dec =
      (afterRow slen records (beforeRow c (costSum records) s.dec), [.rpcResult c records]) := by
    rw [List.append_assoc, ← hsplit, decRun_append, hhead, hrow]
    rfl
  have hend : (afterRow slen records (beforeRow c (costSum records) s.dec)).st = .done := by
    rw [afterRow, if_neg (by exact hc)]
  have hstop := offerBytes_of_ends (by rw [hs]; rfl) hrun (by rw [hall]; exact hend) [csum, term]
  rw [hall] at hstop
  refine ⟨slen, Eq.trans ?_ hstop⟩
  rw [wireFrame_result, hsplit]
  simp

/-- A result without records ends with `data_length`, so the two bytes after it are held (R93, R102). -/
theorem offerBytes_emptyRow {s : State} (hs : s.dec.st = .syncHeader) (hw : s.dec.win = []) (c csum term : Byte) :
    offerBytes (wireFrame Config.typeRpcResult (rpcPayload c []) csum term) s =
      .next { s with dec := terminate .rpcEmpty (beforeRow c 0 s.dec), heldBytes := s.heldBytes ++ [csum, term] } := by
  have hcmd := readRpcResponseCmdRecordsCommand
    { s with dec := { s.dec with
      ptype := Config.typeRpcResult, flen := 2, fields := [], cur := [], st := .readRpcResponseCmd } } c rfl
  have hlen := readRpcDataLenEndsOnZero
    { s with dec := { s.dec with
      ptype := Config.typeRpcResult, flen := 2, fields := [], cur := [], rcmd := c, st := .readRpcDataLen } } 0 rfl
  rw [offerBytes_wireFrame hs hw]
  refine (offerBytes_row (st := .readRpcResponseCmd) rfl hcmd [0, csum, term]).trans ?_
  refine (offerBytes_row (st := .readRpcDataLen) rfl hlen [csum, term]).trans ?_
  exact offerBytes_done rfl [csum, term]

/-- Settles O39: a row without records ends with `data_length`, any other with its last record. -/
theorem cleanResultFrameEmitsItsRecords : Obligations.CleanResultFrameEmitsItsRecords := by
  intro s c csum term records hs hw hcost
  by_cases hnil : records = []
  · subst hnil
    exact ⟨_, offerBytes_emptyRow hs hw c csum term, rfl, rfl, fun _ => ⟨rfl, rfl, rfl, rfl, rfl⟩,
      fun h => absurd rfl h⟩
  by_cases hc : c = 0x04
  · obtain ⟨slen, win, hrun⟩ := decRun_resultFrame hs hw c hnil hcost csum term
    rw [afterRow, if_pos (by exact hc)] at hrun
    have hfeed := offerBytes_of_running (s := s) (by rw [hs]; rfl) (by rw [hrun]; nofun)
    rw [hrun] at hfeed
    exact ⟨_, hfeed, rfl, rfl, fun h => absurd h hnil, fun _ => ⟨rfl, rfl, rfl, fun h => absurd hc h,
      fun _ => ⟨rfl, rfl, rfl, rfl⟩⟩⟩
  · obtain ⟨slen, hfeed⟩ := offerBytes_terminalRow hs hw hc hnil hcost csum term
    rw [afterRow, if_neg (by exact hc)] at hfeed
    exact ⟨_, hfeed, rfl, rfl, fun h => absurd h hnil, fun _ => ⟨rfl, rfl, rfl, fun _ => ⟨rfl, rfl, rfl, rfl⟩,
      fun h => absurd h hc⟩⟩

end Sys2Proof.Machine
end


section
/-! PROOFS, family 41_decoder.md, fourth part: the window of `SyncHeader`. Whatever `P_KEEP` is, the window holds enough of the
bytes consumed to show whether they end with the header (R112); a decoder therefore steps the same under every `P_KEEP`, and
after noise the same as a fresh one, but for registers that no later step reads (R112, R113). Last, the row a host shows (R109). -/

namespace Sys2Proof.Machine

/-! ### What the window knows of the bytes consumed (R95, R111) -/

/-- The window is a suffix of the bytes `consumed`, and has every suffix of them that is kept and fits. -/
structure Tracks (keep : Byte → Bool) (consumed win : Bytes) : Prop where
  suffix : win <:+ consumed
  kept : ∀ {y : Bytes}, y <:+ consumed → y.all keep = true → y.length ≤ Config.windowLen → y <:+ win

theorem tracks_self (keep : Byte → Bool) (win : Bytes) : Tracks keep win win := ⟨List.suffix_rfl, fun h _ _ => h⟩

theorem lastN_suffix (n : Nat) (x : Bytes) : lastN n x <:+ x := List.drop_suffix _ _

/-- The last `n` bytes have every suffix of at most `n` bytes. -/
theorem suffix_lastN {n : Nat} {x y : Bytes} (h : y <:+ x) (hn : y.length ≤ n) : y <:+ lastN n x := by
  refine List.suffix_of_suffix_length_le h (lastN_suffix n x) ?_
  have := h.length_le
  rw [lastN, List.length_drop]
  omega

/-- The window goes on tracking. -/
theorem Tracks.slide {keep : Byte → Bool} {consumed win : Bytes} (h : Tracks keep consumed win) (b : Byte) :
    Tracks keep (consumed ++ [b]) (slideWindow keep b win) where
  suffix := (slideWindow_suffix keep b win).trans (List.suffix_append_self_iff.mpr h.suffix)
  kept := by
    intro y hy hk hlen
    obtain rfl | ⟨z, rfl, hz⟩ := List.suffix_concat_iff.mp hy
    · exact List.nil_suffix
    · obtain ⟨hkz, hkb⟩ : z.all keep = true ∧ keep b = true := by simpa using hk
      rw [slideWindow, if_pos hkb]
      have hzlen : z.length ≤ Config.windowLen := by
        rw [List.length_append] at hlen
        omega
      exact suffix_lastN (List.suffix_append_self_iff.mpr (h.kept hz hkz hzlen)) hlen

/-- The new window is the header exactly where the bytes consumed end with it (R112). -/
theorem Tracks.slide_eq_header_iff {keep : Byte → Bool} (hkeep : Config.KeepsHeader keep) {consumed win : Bytes}
    (h : Tracks keep consumed win) (b : Byte) :
    slideWindow keep b win = Config.header ↔ Config.header <:+ consumed ++ [b] := by
  have hs := h.slide b
  refine ⟨fun he => he ▸ hs.suffix, fun hsuf => ?_⟩
  exact ((hs.kept hsuf hkeep (Nat.le_refl _)).eq_of_length_le (slideWindow_length keep b win)).symm

/-- A byte in `SyncHeader` after which the bytes consumed end with the header (R95, R112). -/
theorem decByteWith_matches {keep : Byte → Bool} (hkeep : Config.KeepsHeader keep) {d : DecRegs} (hs : d.st = .syncHeader)
    {consumed : Bytes} (h : Tracks keep consumed d.win) {b : Byte} (hm : Config.header <:+ consumed ++ [b]) :
    decByteWith keep b d = ({ d with win := [], st := .readVersion }, none) := by
  simp only [decByteWith, hs, ruleSyncHeader, if_pos ((h.slide_eq_header_iff hkeep b).mpr hm)]

/-- A byte in `SyncHeader` after which they do not. -/
theorem decByteWith_slides {keep : Byte → Bool} (hkeep : Config.KeepsHeader keep) {d : DecRegs} (hs : d.st = .syncHeader)
    {consumed : Bytes} (h : Tracks keep consumed d.win) {b : Byte} (hm : ¬ Config.header <:+ consumed ++ [b]) :
    decByteWith keep b d = ({ d with win := slideWindow keep b d.win }, none) := by
  simp only [decByteWith, hs, ruleSyncHeader, if_neg (mt (h.slide_eq_header_iff hkeep b).mp hm)]

/-- While the decoder stays in `SyncHeader` its window tracks the bytes consumed. -/
theorem tracks_of_stays {keep : Byte → Bool} (hkeep : Config.KeepsHeader keep) {d : DecRegs} {consumed bs : Bytes}
    (h : Tracks keep consumed d.win) (hstays : ∀ pre, pre <+: bs → (decRun keep pre d).1.st = .syncHeader) :
    Tracks keep (consumed ++ bs) (decRun keep bs d).1.win := by
  induction bs generalizing d consumed with
  | nil => simpa using h
  | cons b bs ih =>
    have hs : d.st = .syncHeader := hstays [] List.nil_prefix
    have hb : (decByteWith keep b d).1.st = .syncHeader := hstays [b] (by simp)
    have hm : ¬ Config.header <:+ consumed ++ [b] := fun hm => by
      rw [decByteWith_matches hkeep hs h hm] at hb
      cases hb
    have hrest := ih (d := (decByteWith keep b d).1) (consumed := consumed ++ [b])
      (by rw [decByteWith_slides hkeep hs h hm]; exact h.slide b)
      (fun pre hpre => hstays (b :: pre) (by simpa using hpre))
    simpa using hrest

/-- Settles O57: the window tracks the bytes consumed. -/
theorem headerMatchLaw : Obligations.HeaderMatchLaw := by
  intro keep hkeep d bs b hs hw hstays
  have htracks : Tracks keep bs (decRun keep bs d).1.win :=
    tracks_of_stays hkeep (consumed := []) (hw ▸ tracks_self keep []) hstays
  have hsync := hstays bs List.prefix_rfl
  have hdrop : (bs ++ [b]).drop (bs.length + 1 - 6) = Config.header ↔ Config.header <:+ bs ++ [b] := by
    rw [List.suffix_iff_eq_drop, List.length_append, eq_comm]
    rfl
  refine Iff.trans ?_ hdrop.symm
  rw [decRun_append]
  by_cases hm : Config.header <:+ bs ++ [b]
  · simp [decByteWith_matches hkeep hsync htracks hm, hm]
  · simp [decByteWith_slides hkeep hsync htracks hm, hm, hsync]

/-! ### Two decoders side by side -/

/-- Two decoders that are related step by step give the same events and end related. -/
theorem decRun_simulates {R : DecRegs → DecRegs → Prop} {keep keep' : Byte → Bool}
    (hstep : ∀ b d e, R d e → R (decByteWith keep b d).1 (decByteWith keep' b e).1 ∧
      (decByteWith keep b d).2 = (decByteWith keep' b e).2) (bs : Bytes) {d e : DecRegs} (h : R d e) :
    R (decRun keep bs d).1 (decRun keep' bs e).1 ∧ (decRun keep bs d).2 = (decRun keep' bs e).2 := by
  induction bs generalizing d e with
  | nil => exact ⟨h, rfl⟩
  | cons b bs ih =>
    obtain ⟨hone, hev⟩ := hstep b d e h
    obtain ⟨hrest, hevs⟩ := ih hone
    exact ⟨hrest, by simp only [decRun_cons, hev, hevs]⟩

/-- Two answers of a rule with the same event, and the same registers as far as `f` shows them. -/
def Alike (f : DecRegs → DecRegs) (r r' : DecRegs × Option Event) : Prop := f r.1 = f r'.1 ∧ r.2 = r'.2

/-- Two rules that test the same condition are alike where both their branches are. -/
theorem Alike.ite {f : DecRegs → DecRegs} {c : Prop} [Decidable c] {r₁ r₂ r₁' r₂' : DecRegs × Option Event}
    (hpos : c → Alike f r₁ r₁') (hneg : ¬ c → Alike f r₂ r₂') :
    Alike f (if c then r₁ else r₂) (if c then r₁' else r₂') := by
  by_cases h : c
  · simpa [h] using hpos h
  · simpa [h] using hneg h

/-! ### Two choices of `P_KEEP` (R112) -/

/-- The registers but for the window. -/
def dropWin (d : DecRegs) : DecRegs := { d with win := [] }

theorem finishRecord_dropWin {d e : DecRegs} (h : dropWin d = dropWin e) :
    Alike dropWin (finishRecord d) (finishRecord e) := by
  cases d
  cases e
  cases h
  exact .ite (fun _ => .ite (fun _ => ⟨rfl, rfl⟩) fun _ => ⟨rfl, rfl⟩) fun _ => ⟨rfl, rfl⟩

/-- Outside `SyncHeader` no rule reads the window or `P_KEEP`. -/
theorem decByteWith_dropWin {d : DecRegs} (h : d.st ≠ .syncHeader) (keep keep' : Byte → Bool) (b : Byte) :
    Alike dropWin (decByteWith keep' b (dropWin d)) (decByteWith keep b d) := by
  obtain ⟨st, win, ptype, flen, rcmd, dlen, slen, cur, fields, reason⟩ := d
  cases st with
  | syncHeader => exact absurd rfl h
  | readVersion | readStateByte | readRpcDataLen => exact .ite (fun _ => ⟨rfl, rfl⟩) fun _ => ⟨rfl, rfl⟩
  | readLength =>
    exact .ite (fun _ => ⟨rfl, rfl⟩) fun _ => .ite (fun _ => ⟨rfl, rfl⟩) fun _ => .ite (fun _ => ⟨rfl, rfl⟩) fun _ =>
      .ite (fun _ => ⟨rfl, rfl⟩) fun _ => ⟨rfl, rfl⟩
  | readRpcStrLen => exact .ite (fun _ => finishRecord_dropWin rfl) fun _ => ⟨rfl, rfl⟩
  | readRpcStrData => exact .ite (fun _ => finishRecord_dropWin rfl) fun _ => ⟨rfl, rfl⟩
  | readType | readErrorByte | readRpcResponseCmd | done | unused => exact ⟨rfl, rfl⟩

/-- The two decoders differ in the window alone, and both windows track the same bytes. -/
structure SameButWin (keep keep' : Byte → Bool) (d e : DecRegs) : Prop where
  regs : dropWin d = dropWin e
  tracks : ∃ consumed, Tracks keep consumed d.win ∧ Tracks keep' consumed e.win

/-- In `SyncHeader` both decoders see the header or neither does; elsewhere the window is not read. -/
theorem SameButWin.step {keep keep' : Byte → Bool} (hkeep : Config.KeepsHeader keep) (hkeep' : Config.KeepsHeader keep')
    (b : Byte) {d e : DecRegs} (h : SameButWin keep keep' d e) :
    SameButWin keep keep' (decByteWith keep b d).1 (decByteWith keep' b e).1 ∧
      (decByteWith keep b d).2 = (decByteWith keep' b e).2 := by
  obtain ⟨hregs, consumed, htd, hte⟩ := h
  have hst : (dropWin d).st = (dropWin e).st := congrArg DecRegs.st hregs
  by_cases hd : d.st = .syncHeader
  · have he : e.st = .syncHeader := hst.symm.trans hd
    by_cases hm : Config.header <:+ consumed ++ [b]
    · rw [decByteWith_matches hkeep hd htd hm, decByteWith_matches hkeep' he hte hm]
      exact ⟨⟨congrArg (fun r => { r with st := .readVersion }) hregs, [], tracks_self _ _, tracks_self _ _⟩, rfl⟩
    · rw [decByteWith_slides hkeep hd htd hm, decByteWith_slides hkeep' he hte hm]
      exact ⟨⟨hregs, consumed ++ [b], htd.slide b, hte.slide b⟩, rfl⟩
  · have he : e.st ≠ .syncHeader := fun he => hd (hst.trans he)
    obtain ⟨hone, hev⟩ := decByteWith_dropWin hd keep keep' b
    obtain ⟨hone', hev'⟩ := decByteWith_dropWin he keep' keep' b
    rw [hregs] at hone hev
    exact ⟨⟨hone.symm.trans hone', consumed, by rwa [decByteWith_win hd], by rwa [decByteWith_win he]⟩,
      hev.symm.trans hev'⟩

/-- Settles O58: from reset the two decoders differ in the window alone. -/
theorem windowPredicateIsUnobservable : Obligations.WindowPredicateIsUnobservable := by
  intro keep keep' hkeep hkeep' bs
  obtain ⟨hend, hev⟩ := decRun_simulates (fun b _ _ h => h.step hkeep hkeep' b) bs
    (SameButWin.mk (d := DecRegs.reset) rfl ⟨[], tracks_self keep [], tracks_self keep' []⟩)
  exact ⟨hev, hend.regs⟩

/-! ### A decoder after noise and a fresh one (R113) -/

/-- The registers with those set to 0 that no step reads before it writes them, by the state. -/
def live (d : DecRegs) : DecRegs :=
  match d.st with
  | .readLength => { d with flen := 0, rcmd := 0, dlen := 0, slen := 0 }
  | .readRpcDataLen => { d with ptype := 0, flen := 0, dlen := 0, slen := 0 }
  | .readRpcStrLen => { d with ptype := 0, flen := 0, slen := 0 }
  | .readRpcStrData => { d with ptype := 0, flen := 0 }
  | _ => { d with ptype := 0, flen := 0, rcmd := 0, dlen := 0, slen := 0 }

@[simp] theorem live_st (d : DecRegs) : (live d).st = d.st := by unfold live; split <;> rfl
@[simp] theorem live_win (d : DecRegs) : (live d).win = d.win := by unfold live; split <;> rfl
@[simp] theorem live_cur (d : DecRegs) : (live d).cur = d.cur := by unfold live; split <;> rfl
@[simp] theorem live_fields (d : DecRegs) : (live d).fields = d.fields := by unfold live; split <;> rfl
@[simp] theorem live_reason (d : DecRegs) : (live d).reason = d.reason := by unfold live; split <;> rfl

/-- The registers that R113 compares are live in every state. -/
theorem eq_of_live_eq {d e : DecRegs} (h : live d = live e) :
    d.st = e.st ∧ d.reason = e.reason ∧ d.win = e.win ∧ d.cur = e.cur ∧ d.fields = e.fields := by
  refine ⟨?_, ?_, ?_, ?_, ?_⟩
  · simpa using congrArg DecRegs.st h
  · simpa using congrArg DecRegs.reason h
  · simpa using congrArg DecRegs.win h
  · simpa using congrArg DecRegs.cur h
  · simpa using congrArg DecRegs.fields h

/-- `finish_record` reads neither the packet type nor the length, and leads to no state that does. -/
theorem finishRecord_live {d e : DecRegs}
    (h : { d with ptype := 0, flen := 0 } = { e with ptype := 0, flen := 0 }) :
    Alike live (finishRecord d) (finishRecord e) := by
  cases d
  cases e
  cases h
  exact .ite (fun _ => .ite (fun _ => ⟨rfl, rfl⟩) fun _ => ⟨rfl, rfl⟩) fun _ => ⟨rfl, rfl⟩

/-- A step reads no register but the live ones, and so writes the same to those. -/
theorem decByteWith_live (keep : Byte → Bool) (b : Byte) (d : DecRegs) :
    Alike live (decByteWith keep b (live d)) (decByteWith keep b d) := by
  obtain ⟨st, win, ptype, flen, rcmd, dlen, slen, cur, fields, reason⟩ := d
  cases st with
  | syncHeader | readVersion | readStateByte | readRpcDataLen => exact .ite (fun _ => ⟨rfl, rfl⟩) fun _ => ⟨rfl, rfl⟩
  | readLength =>
    exact .ite (fun _ => ⟨rfl, rfl⟩) fun _ => .ite (fun _ => ⟨rfl, rfl⟩) fun _ => .ite (fun _ => ⟨rfl, rfl⟩) fun _ =>
      .ite (fun _ => ⟨rfl, rfl⟩) fun _ => ⟨rfl, rfl⟩
  | readRpcStrLen => exact .ite (fun _ => finishRecord_live rfl) fun _ => ⟨rfl, rfl⟩
  | readRpcStrData => exact .ite (fun _ => finishRecord_live rfl) fun _ => ⟨rfl, rfl⟩
  | readType | readErrorByte | readRpcResponseCmd | done | unused => exact ⟨rfl, rfl⟩

/-- Two decoders with the same live registers step alike. -/
theorem decByteWith_of_live_eq (keep : Byte → Bool) (b : Byte) {d e : DecRegs} (h : live d = live e) :
    live (decByteWith keep b d).1 = live (decByteWith keep b e).1 ∧
      (decByteWith keep b d).2 = (decByteWith keep b e).2 := by
  obtain ⟨hd, hevd⟩ := decByteWith_live keep b d
  obtain ⟨he, heve⟩ := decByteWith_live keep b e
  rw [h] at hd hevd
  exact ⟨hd.symm.trans he, hevd.symm.trans heve⟩

/-- Bytes other than the header's last do not complete it, whatever the window holds (R95). -/
theorem decRun_without_lastHeaderByte {keep : Byte → Bool} (hkeep : Config.KeepsHeader keep) {d : DecRegs}
    (hs : d.st = .syncHeader) {consumed bs : Bytes} (h : Tracks keep consumed d.win) (hbs : ∀ b ∈ bs, b ≠ 0x56) :
    ∃ win, decRun keep bs d = ({ d with win := win }, []) ∧ Tracks keep (consumed ++ bs) win := by
  induction bs generalizing d consumed with
  | nil => exact ⟨d.win, rfl, by simpa using h⟩
  | cons b bs ih =>
    obtain ⟨hb, hrest⟩ := List.forall_mem_cons.mp hbs
    have hm : ¬ Config.header <:+ consumed ++ [b] := by
      intro hm
      obtain hnil | ⟨t, ht, _⟩ := List.suffix_concat_iff.mp hm
      · cases hnil
      · have hlast : some 0x56 = (t ++ [b]).getLast? := congrArg List.getLast? ht
        rw [List.getLast?_concat] at hlast
        exact hb (Option.some.inj hlast).symm
    obtain ⟨win, hrun, htracks⟩ := ih (d := { d with win := slideWindow keep b d.win }) hs (h.slide b) hrest
    exact ⟨win, by rw [decRun_cons, decByteWith_slides hkeep hs h hm, hrun]; rfl, by simpa using htracks⟩

/-- The header is found whatever the window holds, for it has its last byte in no other place (R95, R113). -/
theorem decRun_header {keep : Byte → Bool} (hkeep : Config.KeepsHeader keep) {d : DecRegs} (hs : d.st = .syncHeader) :
    decRun keep Config.header d = ({ d with win := [], st := .readVersion }, []) := by
  obtain ⟨win, hrun, htracks⟩ := decRun_without_lastHeaderByte hkeep hs (bs := [0x49, 0x4D, 0x50, 0x52, 0x4F])
    (tracks_self keep d.win) (by decide)
  have hm : Config.header <:+ d.win ++ [0x49, 0x4D, 0x50, 0x52, 0x4F] ++ [0x56] := ⟨d.win, by simp [Config.header]⟩
  rw [show Config.header = [0x49, 0x4D, 0x50, 0x52, 0x4F] ++ [0x56] from rfl, decRun_append, hrun, decRun_cons,
    decByteWith_matches hkeep (by exact hs) htracks hm]
  rfl

theorem decRun_inv {d : DecRegs} (h : DecInv d) (keep : Byte → Bool) (bs : Bytes) : DecInv (decRun keep bs d).1 := by
  induction bs generalizing d with
  | nil => exact h
  | cons b bs ih => exact ih (decByteWith_inv h keep b)

/-- A decoder back in `SyncHeader` and a fresh one give the same events on bytes that begin with the header, and end with the
same live registers: past the header they have the same live registers, for no row and no reason is left over (R113). -/
theorem decRun_resync {keep : Byte → Bool} (hkeep : Config.KeepsHeader keep) {d : DecRegs} (hs : d.st = .syncHeader)
    (hinv : DecInv d) (rest : Bytes) :
    live (decRun keep (Config.header ++ rest) d).1 = live (decRun keep (Config.header ++ rest) DecRegs.reset).1 ∧
      (decRun keep (Config.header ++ rest) d).2 = (decRun keep (Config.header ++ rest) DecRegs.reset).2 := by
  obtain ⟨hcur, hfields⟩ := hinv.row_nil (by rw [hs]; rfl)
  have hreason : d.reason = .none := hinv.reason_none (by rw [hs]; nofun)
  rw [decRun_append, decRun_append, decRun_header hkeep hs, decRun_header hkeep decReset_st]
  refine decRun_simulates (R := fun d e => live d = live e) (fun b _ _ h => decByteWith_of_live_eq keep b h) rest ?_
  simp [live, hcur, hfields, hreason]

/-- Settles O59: a decoder after noise is back in `SyncHeader` with the invariant. -/
theorem resyncLaw : Obligations.ResyncLaw := by
  rintro keep hkeep noise _ hs ⟨rest, rfl⟩
  obtain ⟨hlive, hev⟩ := decRun_resync hkeep hs (decRun_inv decReset_inv keep noise) rest
  rw [decRun_append]
  exact ⟨congrArg _ hev, eq_of_live_eq hlive⟩

/-! ### The row shown (R109) -/

/-- Settles O60: by the fields, one space before each but the first. -/
theorem shownRowIsSpaceJoined : Obligations.ShownRowIsSpaceJoined := by
  intro fs
  induction fs using shownRow.induct with
  | case1 => simp [shownRow]
  | case2 f => simp [shownRow]
  | case3 f g fs ih =>
    obtain ⟨hjoin, hlen⟩ := ih
    have hrest := hlen (List.cons_ne_nil g fs)
    have hone : (shownRow (f :: g :: fs)).length = f.length + 1 + (shownRow (g :: fs)).length := by
      simp [shownRow, Nat.add_assoc, Nat.add_comm 1]
    have htotal : lengthSum (f :: g :: fs) = f.length + lengthSum (g :: fs) := lengthSum_cons _ _
    exact ⟨by simp [shownRow, hjoin], fun _ => by rw [hone, htotal, List.length_cons]; omega⟩

end Sys2Proof.Machine
end

section
/-! PROOFS, family 60_exceptions.md. In `Done` no input but `dec_start` and `reset` moves a decoder register (R93, R132), so no
list of such inputs does; `START` and `RESET` set every decoder register to its reset value (R141, R142). -/

namespace Sys2Proof.Machine

/-- In `Done` a byte is held, `dec_fail` is not enabled, and the encoder's inputs do not reach the decoder (R90, R93, R132). -/
theorem applyInput_dec_of_done {x : Input} (hstart : x ≠ .decStart) (hreset : x ≠ .reset) {s t : State}
    (hs : s.dec.st = .done) (h : applyInput x s = .next t) : t.dec = s.dec := by
  cases x with
  | encReq cmd args => cases h; exact offerRequest_dec cmd args s
  | encTake => cases h; exact offerTake_dec s
  | encFail => cases h; exact offerEncFail_dec s
  | decByte b =>
    rw [applyInput, offerByte_done hs] at h
    cases h
    exact holdByte_dec b s
  | decFail => cases h; exact congrArg State.dec (offerDecFail_done hs)
  | decStart => contradiction
  | reset => contradiction

theorem runInputs_dec_of_done {xs : List Input} (hxs : ∀ x ∈ xs, x ≠ .decStart ∧ x ≠ .reset) {s t : State}
    (hs : s.dec.st = .done) (h : runInputs xs s = .next t) : t.dec = s.dec := by
  induction xs generalizing s with
  | nil => cases h; rfl
  | cons x xs ih =>
    obtain ⟨⟨hstart, hreset⟩, hrest⟩ := List.forall_mem_cons.mp hxs
    obtain ⟨u, hu, ht⟩ := andThen_eq_next.mp h
    have hdec : u.dec = s.dec := applyInput_dec_of_done hstart hreset hs hu
    exact (ih hrest (by rw [hdec]; exact hs) ht).trans hdec

/-- Settles O46: an operation other than the two is inputs other than `dec_start` and `reset`; the two are these inputs. -/
theorem onlyStartAndResetLeaveDone : Obligations.OnlyStartAndResetLeaveDone := by
  intro i s t hs h
  refine ⟨fun hstart hreset => ?_, ?_⟩
  · obtain ⟨xs, hxs, hrun⟩ := exec_next_runInputs_of_ne hstart hreset h
    exact runInputs_dec_of_done hxs hs hrun
  · rintro (rfl | rfl)
    · cases h; exact startRun_dec s
    · cases h; exact resetBlock_dec s

end Sys2Proof.Machine
end

section
/-! PROOFS, family 70_reset_and_hazards.md. A step runs what its bytes decode to, and waits where the host offers nothing (R149,
R155); `RESET` and `START` reach the same registers from every state (R141, R142). -/

namespace Sys2Proof.Machine

/-- With nothing offered the block waits (R149, R155; log 2). -/
theorem step_of_script_nil {s : State} (h : s.script = []) : step s = .next s := by
  rw [step, h]

theorem exec_start (s : State) : exec .start s = .next (startRun s) := rfl

theorem exec_reset (s : State) : exec .reset s = .next (resetBlock s) := rfl

/-- Settles O3: the two branches of the fetch. -/
theorem stepRunsDecodedInstruction : Obligations.StepRunsDecodedInstruction :=
  ⟨fun _ _ _ _ hdec => step_of_decode hdec, fun _ hnil => step_of_script_nil hnil⟩

/-- Settles O43: `START` writes the decoder's reset values and nothing of the encoder or the trace. -/
theorem startSetsEveryDecoderRegister : Obligations.StartSetsEveryDecoderRegister :=
  fun s => ⟨startRun s, exec_start s, startRun_enc s, startRun_trace s, startRun_dec s⟩

/-- Settles O44: `RESET` writes the reset values of both agents and nothing of the trace. -/
theorem resetSetsEveryRegister : Obligations.ResetSetsEveryRegister :=
  fun s => ⟨resetBlock s, exec_reset s, resetBlock_trace s, resetBlock_enc s, resetBlock_dec s⟩

end Sys2Proof.Machine
end
